-- ==== Sys2Proof/Word.lean ====
section
/-! DEFINITION. The widths of the DWMC16: words, addresses and bytes (spec/00_scope.md R2, R6, R8). -/

namespace Sys2Proof

/-- The one width of a datum: a register, a memory word, an instruction word (R2, R6 `XLEN`). Bit 0 is the least
significant (R8). -/
abbrev Word := BitVec 16

/-- An address of one word in the single address space (R6 `ALEN`, spec/20_memory.md R50). -/
abbrev Addr := BitVec 24

/-- Half a word. The machine never addresses one (20 R58); it is the unit of the host's memory cells. -/
abbrev Byte := BitVec 8

end Sys2Proof
end

