-- ==== Sys2Proof/Config.lean ====
section
/-! DEFINITION. What the source leaves to the hardware: the types of the named parameters of spec/00_scope.md R7, and the
free values `any16()`, `any1()` of R11. The reference values stand in Sys2Proof/Machine/Reference.lean. -/

namespace Sys2Proof

/-- The twelve flags of R13 (spec/10_state.md R31). -/
inductive Flag
  | z | c | qc | hc | tc | eq | n | of | ie | i2 | i1 | i0
  deriving DecidableEq, Repr

/-- Every flag, once (10 R31). -/
def Flag.all : List Flag := [.z, .c, .qc, .hc, .tc, .eq, .n, .of, .ie, .i2, .i1, .i0]

/-- The flags software writes: all but I2, I1, I0 (10 R34). -/
def Flag.writable : Flag → Bool
  | .i2 | .i1 | .i0 => false
  | .z | .c | .qc | .hc | .tc | .eq | .n | .of | .ie => true

/-- Parameter FLAG_BIT: the bit of R13 that holds each flag (10 R30, decision D3). DESIGN CHOICE of the reference value:
log entry 2. -/
structure FlagLayout where
  z : Fin 16
  c : Fin 16
  qc : Fin 16
  hc : Fin 16
  tc : Fin 16
  eq : Fin 16
  n : Fin 16
  of : Fin 16
  ie : Fin 16
  i2 : Fin 16
  i1 : Fin 16
  i0 : Fin 16
  deriving DecidableEq, Repr

/-- The bit position of a flag, `FLAG_BIT(n)` of R11. -/
def FlagLayout.pos (l : FlagLayout) : Flag → Fin 16
  | .z => l.z
  | .c => l.c
  | .qc => l.qc
  | .hc => l.hc
  | .tc => l.tc
  | .eq => l.eq
  | .n => l.n
  | .of => l.of
  | .ie => l.ie
  | .i2 => l.i2
  | .i1 => l.i1
  | .i0 => l.i0

/-- Parameter BITSEL: the register bit that the field value `f` selects, weight 2^f or figure numbering (30 R86,
decision D2, log entry 3). -/
inductive BitSelect
  | weight | figure
  deriving DecidableEq, Repr

/-- Parameter STACK_DISCIPLINE: push writes then decrements, or decrements then writes (10 R26, decision D8, log
entry 4). -/
inductive StackDiscipline
  | writeThenDecrement | decrementThenWrite
  deriving DecidableEq, Repr

/-- Parameter ADDR_WORD_ORDER: which word of a 24-bit address stands first (20 R58, decisions D17, D31, D34, log
entry 5). -/
inductive AddrOrder
  | highFirst | lowFirst
  deriving DecidableEq, Repr

/-- Parameter EXT_ORDER: operand words before target words or after them (30 R104, decision D19, log entry 6). -/
inductive ExtOrder
  | operandFirst | targetFirst
  deriving DecidableEq, Repr

/-- Parameter SUB_CARRY: the sense of the four carries after a subtraction (41 R132, decision D23, log entry 7). -/
inductive SubCarry
  | borrow | notBorrow
  deriving DecidableEq, Repr

/-- What answers at an address (20 R53, R55). -/
inductive MemKind
  | ram | flash | device
  deriving DecidableEq, Repr

/-- A store to flash: refused by the model, or ignored by the platform (20 R55, log entry 15). -/
inductive FlashStore
  | refuse | ignore
  deriving DecidableEq, Repr

/-- One row of the memory map: the addresses from `first` to `last`, both included (20 R53). -/
structure Region where
  first : Nat
  last : Nat
  kind : MemKind
  deriving DecidableEq, Repr

/-- The named parameters of R7, as plain data (log entry 1). -/
structure Params where
  flagLayout : FlagLayout
  bitSelect : BitSelect
  stack : StackDiscipline
  /-- ADDR_WORD_ORDER in an instruction (30 R92, R97). -/
  instrOrder : AddrOrder
  /-- ADDR_WORD_ORDER in a vector (60 R204). -/
  vectorOrder : AddrOrder
  /-- ADDR_WORD_ORDER on the stack: the part pushed first (42 R175). -/
  stackOrder : AddrOrder
  extOrder : ExtOrder
  subCarry : SubCarry
  /-- CMP_SIGNED (42 R165, decision D26, log entry 8). -/
  cmpSigned : Bool
  /-- STRICT_DECODE (30 R107, R108, decision D21, log entry 9). -/
  strictDecode : Bool
  /-- MEM_MAP; an address in no region is one where nothing answers (20 R52, R53, decision D40, log entry 14). -/
  memMap : List Region
  flashStore : FlashStore
  deriving DecidableEq, Repr

/-- FLAG_BIT is an injective map (10 R30): no two flags share a bit. -/
def Params.wf (p : Params) : Bool :=
  decide (Flag.all.map p.flagLayout.pos).Nodup

/-- The free word `any16()`: what a device answers to the `k`-th draw (00 R11, 20 R55, log entry 16). No body: nothing
can be proved of its value. -/
opaque Config.freeWord : Nat → Word

/-- The free bit `any1()` of the `k`-th draw: C, Z, N on the path of bz/bnz that does not decrement (00 R11, 42 R163,
R164, log entry 22). No body: nothing can be proved of its value. -/
opaque Config.freeBit : Nat → Bool

end Sys2Proof
end

