-- ==== Sys2Proof/Machine/Bits.lean ====
section
/-! DEFINITION. Bit fields, sign extension and the two-word form of an address (spec/00_scope.md R8, R10;
spec/20_memory.md R58; spec/30_encoding.md R86, R92). -/

namespace Sys2Proof.Machine

/-- `sext_24(v)` of 00 R10; two's complement is PRESUMED (general knowledge), log entry 39. -/
def sext24 (v : Word) : Addr := v.signExtend 24

/-- `zext_16` of an address's bits 23 to 16: the high part of an address as a word (42 R175). -/
def highPart (a : Addr) : Word := (a.extractLsb' 16 8).setWidth 16

/-- Bits 15 to 0 of an address: its "local sector address" (20 R51). -/
def lowPart (a : Addr) : Word := a.extractLsb' 0 16

/-- The address whose bits 23 to 16 are the low byte of `hi` and whose bits 15 to 0 are `lo` (30 R92, 10 R24). -/
def joinAddr (hi lo : Word) : Addr := hi.extractLsb' 0 8 ++ lo

/-- The segment byte of an address, bits 23 to 16 (20 R51). -/
def segment (a : Addr) : Byte := a.extractLsb' 16 8

/-- The address held by two words in the order given (20 R58). -/
def pairAddr : AddrOrder → Word → Word → Addr
  | .highFirst, w0, w1 => joinAddr w0 w1
  | .lowFirst, w0, w1 => joinAddr w1 w0

/-- The byte with no meaning in a two-word address: bits 15 to 8 of the word that holds the high part (30 R108). -/
def pairJunk : AddrOrder → Word → Word → Byte
  | .highFirst, w0, _ => w0.extractLsb' 8 8
  | .lowFirst, _, w1 => w1.extractLsb' 8 8

/-- The two words of an address, in the order given (20 R58, 42 R175). -/
def addrWords : AddrOrder → Addr → List Word
  | .highFirst, a => [highPart a, lowPart a]
  | .lowFirst, a => [lowPart a, highPart a]

/-- `BITSEL(f)`: the register bit that the bit-select field names (30 R86). -/
def bitPos : BitSelect → Fin 16 → Fin 16
  | .weight, f => f
  | .figure, f => f.rev

/-- The word with only bit `i` set. -/
def bitMask (i : Fin 16) : Word := 1#16 <<< i.val

/-- `v` with bit `i` replaced by `b`. -/
def setBitTo (v : Word) (i : Fin 16) (b : Bool) : Word :=
  if b then v ||| bitMask i else v &&& ~~~ bitMask i

end Sys2Proof.Machine
end

