-- ==== Sys2Proof/Machine/Reference.lean ====
section
/-! DEFINITION. The reference values of the named parameters (spec/00_scope.md R7; spec/95_test_vectors.md,
"Conventions"). They are what `State.reset` carries; no statement is about them alone but where it says so. -/

namespace Sys2Proof.Machine

/-- The reference FLAG_BIT (10 R30, decision D3). DESIGN CHOICE of the spec, log entry 2. -/
def referenceFlagLayout : FlagLayout :=
  { z := 15, c := 13, qc := 12, hc := 11, tc := 10, eq := 9, n := 8, of := 7, ie := 6, i2 := 5, i1 := 4, i0 := 3 }

/-- The source's memory map (20 R53), the reference MEM_MAP. DESIGN CHOICE, log entry 14. -/
def referenceMap : List Region :=
  [ { first := 0x000000, last := 0x00FFFF, kind := .ram },
    { first := 0x010000, last := 0x01FFFF, kind := .device },
    { first := 0x020000, last := 0x07FFFF, kind := .flash },
    { first := 0x080000, last := 0xFFFFFF, kind := .ram } ]

/-- Every parameter at its reference value (00 R7). DESIGN CHOICE, log entry 1. -/
def referenceParams : Params :=
  { flagLayout := referenceFlagLayout
    bitSelect := .weight
    stack := .writeThenDecrement
    instrOrder := .highFirst
    vectorOrder := .highFirst
    stackOrder := .highFirst
    extOrder := .operandFirst
    subCarry := .borrow
    cmpSigned := false
    strictDecode := true
    memMap := referenceMap
    flashStore := .refuse }

end Sys2Proof.Machine
end

