-- ==== Sys2Proof/Syntax.lean ====
section
/-! DEFINITION. The instructions of the DWMC16: one constructor of `Instr` per row of spec/opcode_table.json, and the
structured view `Form` (operation, operand form, jump target) that the encoder and the statements quantify over. -/

namespace Sys2Proof

/-- A register number, the value of a 4-bit register field (spec/30_encoding.md R85, spec/10_state.md R20). -/
abbrev Reg := Fin 16

/-- The value of a bit-select field (30 R86). -/
abbrev BitIndex := Fin 16

/-- The places in memory that an addressing mode names (30 R91 to R95). -/
inductive Place
  | direct (a : Word)
  | absolute (a : Addr)
  | relative (off : Word)
  | indirectY
  | indexedY (off : Word)
  | indirectZ
  | indexedZ (off : Word)
  deriving DecidableEq, Repr

/-- The eight assigned mode codes: Immediate or a place in memory (30 R87, R90). -/
inductive Source
  | immediate (v : Word)
  | memory (p : Place)
  deriving DecidableEq, Repr

/-- The second operand: a register (OS = 0) or an addressing mode (OS = 1) (30 R83, R89). -/
inductive Operand
  | register (r : Reg)
  | source (s : Source)
  deriving DecidableEq, Repr

/-- A jump target: relative to PC0, or an address (30 R97). -/
inductive Target
  | relative (off : Word)
  | absolute (a : Addr)
  deriving DecidableEq, Repr

/-- The two-operand operations (spec/41_alu.md R130). -/
inductive AluOp
  | add | sub | and | or | xor
  deriving DecidableEq, Repr

/-- The one-register operations (41 R134, R136, R140 to R144, R146). -/
inductive UnaryOp
  | inc | dec | not | lsl | lsr | lrl | lrr | lsb
  deriving DecidableEq, Repr

/-- bb branches on a set bit, bnb on a clear one (spec/42_control_flow.md R161, R162). -/
inductive BitTest
  | set | clear
  deriving DecidableEq, Repr

/-- bz branches on zero, bnz on not zero (42 R163, R164). -/
inductive CountTest
  | zero | nonzero
  deriving DecidableEq, Repr

/-- The comparisons of beq, bneq, bgt, bge (42 R165). -/
inductive Cmp
  | eq | ne | gt | ge
  deriving DecidableEq, Repr

/-- Why the words at the program counter are no instruction (30 R105 to R108). -/
inductive DecodeError
  /-- The upper byte is one of the 199 undefined values (30 R105). -/
  | undefinedOpcode
  /-- The mode code is unassigned, or Immediate in a store (30 R106). -/
  | reservedMode
  /-- A must-be-zero bit is set, or a hlt/nop word is not whole, under STRICT_DECODE (30 R107). -/
  | mustBeZero
  /-- The unused byte of a two-word address is not zero, under STRICT_DECODE (30 R108). -/
  | addressJunk
  /-- The list of words ends before the instruction does; a fetch never gives such a list. -/
  | tooShort
  deriving DecidableEq, Repr

/-- The instructions, one constructor per row of spec/opcode_table.json. `rd` is the register of bits 3:0 where it is
written, `rs` where it is only read; `rs2` (in a compare) and `rs` (in a two-register form) stand in bits 7:4. -/
inductive Instr
  /-- `ld Rd, immediate` (R120). -/
  | ldImmediate (rd : Reg) (v : Word)
  /-- `ld Rd, (a16)` (R120). -/
  | ldDirect (rd : Reg) (a : Word)
  /-- `ld Rd, (a24)` (R120). -/
  | ldAbsolute (rd : Reg) (a : Addr)
  /-- `ld Rd, #off16` (R120). -/
  | ldRelative (rd : Reg) (off : Word)
  /-- `ld Rd, @Y` (R120). -/
  | ldIndirectY (rd : Reg)
  /-- `ld Rd, @Y off16` (R120). -/
  | ldIndexedY (rd : Reg) (off : Word)
  /-- `ld Rd, @Z` (R120). -/
  | ldIndirectZ (rd : Reg)
  /-- `ld Rd, @Z off16` (R120). -/
  | ldIndexedZ (rd : Reg) (off : Word)
  /-- `st Rs, (a16)` (R121). -/
  | stDirect (rs : Reg) (a : Word)
  /-- `st Rs, (a24)` (R121). -/
  | stAbsolute (rs : Reg) (a : Addr)
  /-- `st Rs, #off16` (R121). -/
  | stRelative (rs : Reg) (off : Word)
  /-- `st Rs, @Y` (R121). -/
  | stIndirectY (rs : Reg)
  /-- `st Rs, @Y off16` (R121). -/
  | stIndexedY (rs : Reg) (off : Word)
  /-- `st Rs, @Z` (R121). -/
  | stIndirectZ (rs : Reg)
  /-- `st Rs, @Z off16` (R121). -/
  | stIndexedZ (rs : Reg) (off : Word)
  /-- `mv Rd, Rs` (R122). -/
  | mv (rd : Reg) (rs : Reg)
  /-- `add Rd, Rs` (R133). -/
  | addRegister (rd : Reg) (rs : Reg)
  /-- `add Rd, immediate` (R133). -/
  | addImmediate (rd : Reg) (v : Word)
  /-- `add Rd, (a16)` (R133). -/
  | addDirect (rd : Reg) (a : Word)
  /-- `add Rd, (a24)` (R133). -/
  | addAbsolute (rd : Reg) (a : Addr)
  /-- `add Rd, #off16` (R133). -/
  | addRelative (rd : Reg) (off : Word)
  /-- `add Rd, @Y` (R133). -/
  | addIndirectY (rd : Reg)
  /-- `add Rd, @Y off16` (R133). -/
  | addIndexedY (rd : Reg) (off : Word)
  /-- `add Rd, @Z` (R133). -/
  | addIndirectZ (rd : Reg)
  /-- `add Rd, @Z off16` (R133). -/
  | addIndexedZ (rd : Reg) (off : Word)
  /-- `sub Rd, Rs` (R135). -/
  | subRegister (rd : Reg) (rs : Reg)
  /-- `sub Rd, immediate` (R135). -/
  | subImmediate (rd : Reg) (v : Word)
  /-- `sub Rd, (a16)` (R135). -/
  | subDirect (rd : Reg) (a : Word)
  /-- `sub Rd, (a24)` (R135). -/
  | subAbsolute (rd : Reg) (a : Addr)
  /-- `sub Rd, #off16` (R135). -/
  | subRelative (rd : Reg) (off : Word)
  /-- `sub Rd, @Y` (R135). -/
  | subIndirectY (rd : Reg)
  /-- `sub Rd, @Y off16` (R135). -/
  | subIndexedY (rd : Reg) (off : Word)
  /-- `sub Rd, @Z` (R135). -/
  | subIndirectZ (rd : Reg)
  /-- `sub Rd, @Z off16` (R135). -/
  | subIndexedZ (rd : Reg) (off : Word)
  /-- `and Rd, Rs` (R137). -/
  | andRegister (rd : Reg) (rs : Reg)
  /-- `and Rd, immediate` (R137). -/
  | andImmediate (rd : Reg) (v : Word)
  /-- `and Rd, (a16)` (R137). -/
  | andDirect (rd : Reg) (a : Word)
  /-- `and Rd, (a24)` (R137). -/
  | andAbsolute (rd : Reg) (a : Addr)
  /-- `and Rd, #off16` (R137). -/
  | andRelative (rd : Reg) (off : Word)
  /-- `and Rd, @Y` (R137). -/
  | andIndirectY (rd : Reg)
  /-- `and Rd, @Y off16` (R137). -/
  | andIndexedY (rd : Reg) (off : Word)
  /-- `and Rd, @Z` (R137). -/
  | andIndirectZ (rd : Reg)
  /-- `and Rd, @Z off16` (R137). -/
  | andIndexedZ (rd : Reg) (off : Word)
  /-- `or Rd, Rs` (R138). -/
  | orRegister (rd : Reg) (rs : Reg)
  /-- `or Rd, immediate` (R138). -/
  | orImmediate (rd : Reg) (v : Word)
  /-- `or Rd, (a16)` (R138). -/
  | orDirect (rd : Reg) (a : Word)
  /-- `or Rd, (a24)` (R138). -/
  | orAbsolute (rd : Reg) (a : Addr)
  /-- `or Rd, #off16` (R138). -/
  | orRelative (rd : Reg) (off : Word)
  /-- `or Rd, @Y` (R138). -/
  | orIndirectY (rd : Reg)
  /-- `or Rd, @Y off16` (R138). -/
  | orIndexedY (rd : Reg) (off : Word)
  /-- `or Rd, @Z` (R138). -/
  | orIndirectZ (rd : Reg)
  /-- `or Rd, @Z off16` (R138). -/
  | orIndexedZ (rd : Reg) (off : Word)
  /-- `xor Rd, Rs` (R139). -/
  | xorRegister (rd : Reg) (rs : Reg)
  /-- `xor Rd, immediate` (R139). -/
  | xorImmediate (rd : Reg) (v : Word)
  /-- `xor Rd, (a16)` (R139). -/
  | xorDirect (rd : Reg) (a : Word)
  /-- `xor Rd, (a24)` (R139). -/
  | xorAbsolute (rd : Reg) (a : Addr)
  /-- `xor Rd, #off16` (R139). -/
  | xorRelative (rd : Reg) (off : Word)
  /-- `xor Rd, @Y` (R139). -/
  | xorIndirectY (rd : Reg)
  /-- `xor Rd, @Y off16` (R139). -/
  | xorIndexedY (rd : Reg) (off : Word)
  /-- `xor Rd, @Z` (R139). -/
  | xorIndirectZ (rd : Reg)
  /-- `xor Rd, @Z off16` (R139). -/
  | xorIndexedZ (rd : Reg) (off : Word)
  /-- `inc Rd` (R134). -/
  | inc (rd : Reg)
  /-- `dec Rd` (R136). -/
  | dec (rd : Reg)
  /-- `not Rd` (R140). -/
  | not (rd : Reg)
  /-- `lsl Rd` (R141). -/
  | lsl (rd : Reg)
  /-- `lsr Rd` (R142). -/
  | lsr (rd : Reg)
  /-- `lrl Rd` (R143). -/
  | lrl (rd : Reg)
  /-- `lrr Rd` (R144). -/
  | lrr (rd : Reg)
  /-- `lsb Rd` (R146). -/
  | lsb (rd : Reg)
  /-- `bb Rs, f, relative target` (R161). -/
  | bbRel (rs : Reg) (f : BitIndex) (off : Word)
  /-- `bb Rs, f, absolute target` (R161). -/
  | bbAbs (rs : Reg) (f : BitIndex) (t : Addr)
  /-- `bnb Rs, f, relative target` (R162). -/
  | bnbRel (rs : Reg) (f : BitIndex) (off : Word)
  /-- `bnb Rs, f, absolute target` (R162). -/
  | bnbAbs (rs : Reg) (f : BitIndex) (t : Addr)
  /-- `bz Rd, relative target` (R163). -/
  | bzRel (rd : Reg) (off : Word)
  /-- `bz Rd, absolute target` (R163). -/
  | bzAbs (rd : Reg) (t : Addr)
  /-- `bnz Rd, relative target` (R164). -/
  | bnzRel (rd : Reg) (off : Word)
  /-- `bnz Rd, absolute target` (R164). -/
  | bnzAbs (rd : Reg) (t : Addr)
  /-- `beq Rs, Rs2, relative target` (R166). -/
  | beqRegisterRel (rs : Reg) (rs2 : Reg) (toff : Word)
  /-- `beq Rs, immediate, relative target` (R166). -/
  | beqImmediateRel (rs : Reg) (v : Word) (toff : Word)
  /-- `beq Rs, (a16), relative target` (R166). -/
  | beqDirectRel (rs : Reg) (a : Word) (toff : Word)
  /-- `beq Rs, (a24), relative target` (R166). -/
  | beqAbsoluteRel (rs : Reg) (a : Addr) (toff : Word)
  /-- `beq Rs, #off16, relative target` (R166). -/
  | beqRelativeRel (rs : Reg) (off : Word) (toff : Word)
  /-- `beq Rs, @Y, relative target` (R166). -/
  | beqIndirectYRel (rs : Reg) (toff : Word)
  /-- `beq Rs, @Y off16, relative target` (R166). -/
  | beqIndexedYRel (rs : Reg) (off : Word) (toff : Word)
  /-- `beq Rs, @Z, relative target` (R166). -/
  | beqIndirectZRel (rs : Reg) (toff : Word)
  /-- `beq Rs, @Z off16, relative target` (R166). -/
  | beqIndexedZRel (rs : Reg) (off : Word) (toff : Word)
  /-- `beq Rs, Rs2, absolute target` (R166). -/
  | beqRegisterAbs (rs : Reg) (rs2 : Reg) (t : Addr)
  /-- `beq Rs, immediate, absolute target` (R166). -/
  | beqImmediateAbs (rs : Reg) (v : Word) (t : Addr)
  /-- `beq Rs, (a16), absolute target` (R166). -/
  | beqDirectAbs (rs : Reg) (a : Word) (t : Addr)
  /-- `beq Rs, (a24), absolute target` (R166). -/
  | beqAbsoluteAbs (rs : Reg) (a : Addr) (t : Addr)
  /-- `beq Rs, #off16, absolute target` (R166). -/
  | beqRelativeAbs (rs : Reg) (off : Word) (t : Addr)
  /-- `beq Rs, @Y, absolute target` (R166). -/
  | beqIndirectYAbs (rs : Reg) (t : Addr)
  /-- `beq Rs, @Y off16, absolute target` (R166). -/
  | beqIndexedYAbs (rs : Reg) (off : Word) (t : Addr)
  /-- `beq Rs, @Z, absolute target` (R166). -/
  | beqIndirectZAbs (rs : Reg) (t : Addr)
  /-- `beq Rs, @Z off16, absolute target` (R166). -/
  | beqIndexedZAbs (rs : Reg) (off : Word) (t : Addr)
  /-- `bneq Rs, Rs2, relative target` (R167). -/
  | bneqRegisterRel (rs : Reg) (rs2 : Reg) (toff : Word)
  /-- `bneq Rs, immediate, relative target` (R167). -/
  | bneqImmediateRel (rs : Reg) (v : Word) (toff : Word)
  /-- `bneq Rs, (a16), relative target` (R167). -/
  | bneqDirectRel (rs : Reg) (a : Word) (toff : Word)
  /-- `bneq Rs, (a24), relative target` (R167). -/
  | bneqAbsoluteRel (rs : Reg) (a : Addr) (toff : Word)
  /-- `bneq Rs, #off16, relative target` (R167). -/
  | bneqRelativeRel (rs : Reg) (off : Word) (toff : Word)
  /-- `bneq Rs, @Y, relative target` (R167). -/
  | bneqIndirectYRel (rs : Reg) (toff : Word)
  /-- `bneq Rs, @Y off16, relative target` (R167). -/
  | bneqIndexedYRel (rs : Reg) (off : Word) (toff : Word)
  /-- `bneq Rs, @Z, relative target` (R167). -/
  | bneqIndirectZRel (rs : Reg) (toff : Word)
  /-- `bneq Rs, @Z off16, relative target` (R167). -/
  | bneqIndexedZRel (rs : Reg) (off : Word) (toff : Word)
  /-- `bneq Rs, Rs2, absolute target` (R167). -/
  | bneqRegisterAbs (rs : Reg) (rs2 : Reg) (t : Addr)
  /-- `bneq Rs, immediate, absolute target` (R167). -/
  | bneqImmediateAbs (rs : Reg) (v : Word) (t : Addr)
  /-- `bneq Rs, (a16), absolute target` (R167). -/
  | bneqDirectAbs (rs : Reg) (a : Word) (t : Addr)
  /-- `bneq Rs, (a24), absolute target` (R167). -/
  | bneqAbsoluteAbs (rs : Reg) (a : Addr) (t : Addr)
  /-- `bneq Rs, #off16, absolute target` (R167). -/
  | bneqRelativeAbs (rs : Reg) (off : Word) (t : Addr)
  /-- `bneq Rs, @Y, absolute target` (R167). -/
  | bneqIndirectYAbs (rs : Reg) (t : Addr)
  /-- `bneq Rs, @Y off16, absolute target` (R167). -/
  | bneqIndexedYAbs (rs : Reg) (off : Word) (t : Addr)
  /-- `bneq Rs, @Z, absolute target` (R167). -/
  | bneqIndirectZAbs (rs : Reg) (t : Addr)
  /-- `bneq Rs, @Z off16, absolute target` (R167). -/
  | bneqIndexedZAbs (rs : Reg) (off : Word) (t : Addr)
  /-- `bgt Rs, Rs2, relative target` (R168). -/
  | bgtRegisterRel (rs : Reg) (rs2 : Reg) (toff : Word)
  /-- `bgt Rs, immediate, relative target` (R168). -/
  | bgtImmediateRel (rs : Reg) (v : Word) (toff : Word)
  /-- `bgt Rs, (a16), relative target` (R168). -/
  | bgtDirectRel (rs : Reg) (a : Word) (toff : Word)
  /-- `bgt Rs, (a24), relative target` (R168). -/
  | bgtAbsoluteRel (rs : Reg) (a : Addr) (toff : Word)
  /-- `bgt Rs, #off16, relative target` (R168). -/
  | bgtRelativeRel (rs : Reg) (off : Word) (toff : Word)
  /-- `bgt Rs, @Y, relative target` (R168). -/
  | bgtIndirectYRel (rs : Reg) (toff : Word)
  /-- `bgt Rs, @Y off16, relative target` (R168). -/
  | bgtIndexedYRel (rs : Reg) (off : Word) (toff : Word)
  /-- `bgt Rs, @Z, relative target` (R168). -/
  | bgtIndirectZRel (rs : Reg) (toff : Word)
  /-- `bgt Rs, @Z off16, relative target` (R168). -/
  | bgtIndexedZRel (rs : Reg) (off : Word) (toff : Word)
  /-- `bgt Rs, Rs2, absolute target` (R168). -/
  | bgtRegisterAbs (rs : Reg) (rs2 : Reg) (t : Addr)
  /-- `bgt Rs, immediate, absolute target` (R168). -/
  | bgtImmediateAbs (rs : Reg) (v : Word) (t : Addr)
  /-- `bgt Rs, (a16), absolute target` (R168). -/
  | bgtDirectAbs (rs : Reg) (a : Word) (t : Addr)
  /-- `bgt Rs, (a24), absolute target` (R168). -/
  | bgtAbsoluteAbs (rs : Reg) (a : Addr) (t : Addr)
  /-- `bgt Rs, #off16, absolute target` (R168). -/
  | bgtRelativeAbs (rs : Reg) (off : Word) (t : Addr)
  /-- `bgt Rs, @Y, absolute target` (R168). -/
  | bgtIndirectYAbs (rs : Reg) (t : Addr)
  /-- `bgt Rs, @Y off16, absolute target` (R168). -/
  | bgtIndexedYAbs (rs : Reg) (off : Word) (t : Addr)
  /-- `bgt Rs, @Z, absolute target` (R168). -/
  | bgtIndirectZAbs (rs : Reg) (t : Addr)
  /-- `bgt Rs, @Z off16, absolute target` (R168). -/
  | bgtIndexedZAbs (rs : Reg) (off : Word) (t : Addr)
  /-- `bge Rs, Rs2, relative target` (R169). -/
  | bgeRegisterRel (rs : Reg) (rs2 : Reg) (toff : Word)
  /-- `bge Rs, immediate, relative target` (R169). -/
  | bgeImmediateRel (rs : Reg) (v : Word) (toff : Word)
  /-- `bge Rs, (a16), relative target` (R169). -/
  | bgeDirectRel (rs : Reg) (a : Word) (toff : Word)
  /-- `bge Rs, (a24), relative target` (R169). -/
  | bgeAbsoluteRel (rs : Reg) (a : Addr) (toff : Word)
  /-- `bge Rs, #off16, relative target` (R169). -/
  | bgeRelativeRel (rs : Reg) (off : Word) (toff : Word)
  /-- `bge Rs, @Y, relative target` (R169). -/
  | bgeIndirectYRel (rs : Reg) (toff : Word)
  /-- `bge Rs, @Y off16, relative target` (R169). -/
  | bgeIndexedYRel (rs : Reg) (off : Word) (toff : Word)
  /-- `bge Rs, @Z, relative target` (R169). -/
  | bgeIndirectZRel (rs : Reg) (toff : Word)
  /-- `bge Rs, @Z off16, relative target` (R169). -/
  | bgeIndexedZRel (rs : Reg) (off : Word) (toff : Word)
  /-- `bge Rs, Rs2, absolute target` (R169). -/
  | bgeRegisterAbs (rs : Reg) (rs2 : Reg) (t : Addr)
  /-- `bge Rs, immediate, absolute target` (R169). -/
  | bgeImmediateAbs (rs : Reg) (v : Word) (t : Addr)
  /-- `bge Rs, (a16), absolute target` (R169). -/
  | bgeDirectAbs (rs : Reg) (a : Word) (t : Addr)
  /-- `bge Rs, (a24), absolute target` (R169). -/
  | bgeAbsoluteAbs (rs : Reg) (a : Addr) (t : Addr)
  /-- `bge Rs, #off16, absolute target` (R169). -/
  | bgeRelativeAbs (rs : Reg) (off : Word) (t : Addr)
  /-- `bge Rs, @Y, absolute target` (R169). -/
  | bgeIndirectYAbs (rs : Reg) (t : Addr)
  /-- `bge Rs, @Y off16, absolute target` (R169). -/
  | bgeIndexedYAbs (rs : Reg) (off : Word) (t : Addr)
  /-- `bge Rs, @Z, absolute target` (R169). -/
  | bgeIndirectZAbs (rs : Reg) (t : Addr)
  /-- `bge Rs, @Z off16, absolute target` (R169). -/
  | bgeIndexedZAbs (rs : Reg) (off : Word) (t : Addr)
  /-- `jmp relative target` (R171). -/
  | jmpRel (off : Word)
  /-- `jmp absolute target` (R171). -/
  | jmpAbs (t : Addr)
  /-- `jms relative target` (R172). -/
  | jmsRel (off : Word)
  /-- `jms absolute target` (R172). -/
  | jmsAbs (t : Addr)
  /-- `ret` (R173). -/
  | ret
  /-- `reti` (R177). -/
  | reti
  /-- `push Rs` (R190). -/
  | push (rs : Reg)
  /-- `pop Rd` (R191). -/
  | pop (rd : Reg)
  /-- `sb Rd, f` (R193). -/
  | sb (rd : Reg) (f : BitIndex)
  /-- `rb Rd, f` (R194). -/
  | rb (rd : Reg) (f : BitIndex)
  /-- `hlt` (R195). -/
  | hlt
  /-- `nop` (R196). -/
  | nop
  deriving DecidableEq, Repr

/-- The instructions by operation, operand form and target. -/
inductive Form
  | load (rd : Reg) (src : Source)
  | store (rs : Reg) (p : Place)
  | move (rd rs : Reg)
  | alu (op : AluOp) (rd : Reg) (o : Operand)
  | unary (op : UnaryOp) (rd : Reg)
  | bitBranch (b : BitTest) (rs : Reg) (f : BitIndex) (t : Target)
  | countBranch (b : CountTest) (rd : Reg) (t : Target)
  | compare (c : Cmp) (rs : Reg) (o : Operand) (t : Target)
  | jump (t : Target)
  | call (t : Target)
  | ret
  | reti
  | push (rs : Reg)
  | pop (rd : Reg)
  | setBit (rd : Reg) (f : BitIndex)
  | resetBit (rd : Reg) (f : BitIndex)
  | halt
  | nop
  deriving DecidableEq, Repr

/-- The structured view of an instruction. -/
def Instr.form : Instr → Form
  | .ldImmediate rd v => .load rd (.immediate v)
  | .ldDirect rd a => .load rd (.memory (.direct a))
  | .ldAbsolute rd a => .load rd (.memory (.absolute a))
  | .ldRelative rd off => .load rd (.memory (.relative off))
  | .ldIndirectY rd => .load rd (.memory .indirectY)
  | .ldIndexedY rd off => .load rd (.memory (.indexedY off))
  | .ldIndirectZ rd => .load rd (.memory .indirectZ)
  | .ldIndexedZ rd off => .load rd (.memory (.indexedZ off))
  | .stDirect rs a => .store rs (.direct a)
  | .stAbsolute rs a => .store rs (.absolute a)
  | .stRelative rs off => .store rs (.relative off)
  | .stIndirectY rs => .store rs .indirectY
  | .stIndexedY rs off => .store rs (.indexedY off)
  | .stIndirectZ rs => .store rs .indirectZ
  | .stIndexedZ rs off => .store rs (.indexedZ off)
  | .mv rd rs => .move rd rs
  | .addRegister rd rs => .alu .add rd (.register rs)
  | .addImmediate rd v => .alu .add rd (.source (.immediate v))
  | .addDirect rd a => .alu .add rd (.source (.memory (.direct a)))
  | .addAbsolute rd a => .alu .add rd (.source (.memory (.absolute a)))
  | .addRelative rd off => .alu .add rd (.source (.memory (.relative off)))
  | .addIndirectY rd => .alu .add rd (.source (.memory .indirectY))
  | .addIndexedY rd off => .alu .add rd (.source (.memory (.indexedY off)))
  | .addIndirectZ rd => .alu .add rd (.source (.memory .indirectZ))
  | .addIndexedZ rd off => .alu .add rd (.source (.memory (.indexedZ off)))
  | .subRegister rd rs => .alu .sub rd (.register rs)
  | .subImmediate rd v => .alu .sub rd (.source (.immediate v))
  | .subDirect rd a => .alu .sub rd (.source (.memory (.direct a)))
  | .subAbsolute rd a => .alu .sub rd (.source (.memory (.absolute a)))
  | .subRelative rd off => .alu .sub rd (.source (.memory (.relative off)))
  | .subIndirectY rd => .alu .sub rd (.source (.memory .indirectY))
  | .subIndexedY rd off => .alu .sub rd (.source (.memory (.indexedY off)))
  | .subIndirectZ rd => .alu .sub rd (.source (.memory .indirectZ))
  | .subIndexedZ rd off => .alu .sub rd (.source (.memory (.indexedZ off)))
  | .andRegister rd rs => .alu .and rd (.register rs)
  | .andImmediate rd v => .alu .and rd (.source (.immediate v))
  | .andDirect rd a => .alu .and rd (.source (.memory (.direct a)))
  | .andAbsolute rd a => .alu .and rd (.source (.memory (.absolute a)))
  | .andRelative rd off => .alu .and rd (.source (.memory (.relative off)))
  | .andIndirectY rd => .alu .and rd (.source (.memory .indirectY))
  | .andIndexedY rd off => .alu .and rd (.source (.memory (.indexedY off)))
  | .andIndirectZ rd => .alu .and rd (.source (.memory .indirectZ))
  | .andIndexedZ rd off => .alu .and rd (.source (.memory (.indexedZ off)))
  | .orRegister rd rs => .alu .or rd (.register rs)
  | .orImmediate rd v => .alu .or rd (.source (.immediate v))
  | .orDirect rd a => .alu .or rd (.source (.memory (.direct a)))
  | .orAbsolute rd a => .alu .or rd (.source (.memory (.absolute a)))
  | .orRelative rd off => .alu .or rd (.source (.memory (.relative off)))
  | .orIndirectY rd => .alu .or rd (.source (.memory .indirectY))
  | .orIndexedY rd off => .alu .or rd (.source (.memory (.indexedY off)))
  | .orIndirectZ rd => .alu .or rd (.source (.memory .indirectZ))
  | .orIndexedZ rd off => .alu .or rd (.source (.memory (.indexedZ off)))
  | .xorRegister rd rs => .alu .xor rd (.register rs)
  | .xorImmediate rd v => .alu .xor rd (.source (.immediate v))
  | .xorDirect rd a => .alu .xor rd (.source (.memory (.direct a)))
  | .xorAbsolute rd a => .alu .xor rd (.source (.memory (.absolute a)))
  | .xorRelative rd off => .alu .xor rd (.source (.memory (.relative off)))
  | .xorIndirectY rd => .alu .xor rd (.source (.memory .indirectY))
  | .xorIndexedY rd off => .alu .xor rd (.source (.memory (.indexedY off)))
  | .xorIndirectZ rd => .alu .xor rd (.source (.memory .indirectZ))
  | .xorIndexedZ rd off => .alu .xor rd (.source (.memory (.indexedZ off)))
  | .inc rd => .unary .inc rd
  | .dec rd => .unary .dec rd
  | .not rd => .unary .not rd
  | .lsl rd => .unary .lsl rd
  | .lsr rd => .unary .lsr rd
  | .lrl rd => .unary .lrl rd
  | .lrr rd => .unary .lrr rd
  | .lsb rd => .unary .lsb rd
  | .bbRel rs f off => .bitBranch .set rs f (.relative off)
  | .bbAbs rs f t => .bitBranch .set rs f (.absolute t)
  | .bnbRel rs f off => .bitBranch .clear rs f (.relative off)
  | .bnbAbs rs f t => .bitBranch .clear rs f (.absolute t)
  | .bzRel rd off => .countBranch .zero rd (.relative off)
  | .bzAbs rd t => .countBranch .zero rd (.absolute t)
  | .bnzRel rd off => .countBranch .nonzero rd (.relative off)
  | .bnzAbs rd t => .countBranch .nonzero rd (.absolute t)
  | .beqRegisterRel rs rs2 toff => .compare .eq rs (.register rs2) (.relative toff)
  | .beqImmediateRel rs v toff => .compare .eq rs (.source (.immediate v)) (.relative toff)
  | .beqDirectRel rs a toff => .compare .eq rs (.source (.memory (.direct a))) (.relative toff)
  | .beqAbsoluteRel rs a toff => .compare .eq rs (.source (.memory (.absolute a))) (.relative toff)
  | .beqRelativeRel rs off toff => .compare .eq rs (.source (.memory (.relative off))) (.relative toff)
  | .beqIndirectYRel rs toff => .compare .eq rs (.source (.memory .indirectY)) (.relative toff)
  | .beqIndexedYRel rs off toff => .compare .eq rs (.source (.memory (.indexedY off))) (.relative toff)
  | .beqIndirectZRel rs toff => .compare .eq rs (.source (.memory .indirectZ)) (.relative toff)
  | .beqIndexedZRel rs off toff => .compare .eq rs (.source (.memory (.indexedZ off))) (.relative toff)
  | .beqRegisterAbs rs rs2 t => .compare .eq rs (.register rs2) (.absolute t)
  | .beqImmediateAbs rs v t => .compare .eq rs (.source (.immediate v)) (.absolute t)
  | .beqDirectAbs rs a t => .compare .eq rs (.source (.memory (.direct a))) (.absolute t)
  | .beqAbsoluteAbs rs a t => .compare .eq rs (.source (.memory (.absolute a))) (.absolute t)
  | .beqRelativeAbs rs off t => .compare .eq rs (.source (.memory (.relative off))) (.absolute t)
  | .beqIndirectYAbs rs t => .compare .eq rs (.source (.memory .indirectY)) (.absolute t)
  | .beqIndexedYAbs rs off t => .compare .eq rs (.source (.memory (.indexedY off))) (.absolute t)
  | .beqIndirectZAbs rs t => .compare .eq rs (.source (.memory .indirectZ)) (.absolute t)
  | .beqIndexedZAbs rs off t => .compare .eq rs (.source (.memory (.indexedZ off))) (.absolute t)
  | .bneqRegisterRel rs rs2 toff => .compare .ne rs (.register rs2) (.relative toff)
  | .bneqImmediateRel rs v toff => .compare .ne rs (.source (.immediate v)) (.relative toff)
  | .bneqDirectRel rs a toff => .compare .ne rs (.source (.memory (.direct a))) (.relative toff)
  | .bneqAbsoluteRel rs a toff => .compare .ne rs (.source (.memory (.absolute a))) (.relative toff)
  | .bneqRelativeRel rs off toff => .compare .ne rs (.source (.memory (.relative off))) (.relative toff)
  | .bneqIndirectYRel rs toff => .compare .ne rs (.source (.memory .indirectY)) (.relative toff)
  | .bneqIndexedYRel rs off toff => .compare .ne rs (.source (.memory (.indexedY off))) (.relative toff)
  | .bneqIndirectZRel rs toff => .compare .ne rs (.source (.memory .indirectZ)) (.relative toff)
  | .bneqIndexedZRel rs off toff => .compare .ne rs (.source (.memory (.indexedZ off))) (.relative toff)
  | .bneqRegisterAbs rs rs2 t => .compare .ne rs (.register rs2) (.absolute t)
  | .bneqImmediateAbs rs v t => .compare .ne rs (.source (.immediate v)) (.absolute t)
  | .bneqDirectAbs rs a t => .compare .ne rs (.source (.memory (.direct a))) (.absolute t)
  | .bneqAbsoluteAbs rs a t => .compare .ne rs (.source (.memory (.absolute a))) (.absolute t)
  | .bneqRelativeAbs rs off t => .compare .ne rs (.source (.memory (.relative off))) (.absolute t)
  | .bneqIndirectYAbs rs t => .compare .ne rs (.source (.memory .indirectY)) (.absolute t)
  | .bneqIndexedYAbs rs off t => .compare .ne rs (.source (.memory (.indexedY off))) (.absolute t)
  | .bneqIndirectZAbs rs t => .compare .ne rs (.source (.memory .indirectZ)) (.absolute t)
  | .bneqIndexedZAbs rs off t => .compare .ne rs (.source (.memory (.indexedZ off))) (.absolute t)
  | .bgtRegisterRel rs rs2 toff => .compare .gt rs (.register rs2) (.relative toff)
  | .bgtImmediateRel rs v toff => .compare .gt rs (.source (.immediate v)) (.relative toff)
  | .bgtDirectRel rs a toff => .compare .gt rs (.source (.memory (.direct a))) (.relative toff)
  | .bgtAbsoluteRel rs a toff => .compare .gt rs (.source (.memory (.absolute a))) (.relative toff)
  | .bgtRelativeRel rs off toff => .compare .gt rs (.source (.memory (.relative off))) (.relative toff)
  | .bgtIndirectYRel rs toff => .compare .gt rs (.source (.memory .indirectY)) (.relative toff)
  | .bgtIndexedYRel rs off toff => .compare .gt rs (.source (.memory (.indexedY off))) (.relative toff)
  | .bgtIndirectZRel rs toff => .compare .gt rs (.source (.memory .indirectZ)) (.relative toff)
  | .bgtIndexedZRel rs off toff => .compare .gt rs (.source (.memory (.indexedZ off))) (.relative toff)
  | .bgtRegisterAbs rs rs2 t => .compare .gt rs (.register rs2) (.absolute t)
  | .bgtImmediateAbs rs v t => .compare .gt rs (.source (.immediate v)) (.absolute t)
  | .bgtDirectAbs rs a t => .compare .gt rs (.source (.memory (.direct a))) (.absolute t)
  | .bgtAbsoluteAbs rs a t => .compare .gt rs (.source (.memory (.absolute a))) (.absolute t)
  | .bgtRelativeAbs rs off t => .compare .gt rs (.source (.memory (.relative off))) (.absolute t)
  | .bgtIndirectYAbs rs t => .compare .gt rs (.source (.memory .indirectY)) (.absolute t)
  | .bgtIndexedYAbs rs off t => .compare .gt rs (.source (.memory (.indexedY off))) (.absolute t)
  | .bgtIndirectZAbs rs t => .compare .gt rs (.source (.memory .indirectZ)) (.absolute t)
  | .bgtIndexedZAbs rs off t => .compare .gt rs (.source (.memory (.indexedZ off))) (.absolute t)
  | .bgeRegisterRel rs rs2 toff => .compare .ge rs (.register rs2) (.relative toff)
  | .bgeImmediateRel rs v toff => .compare .ge rs (.source (.immediate v)) (.relative toff)
  | .bgeDirectRel rs a toff => .compare .ge rs (.source (.memory (.direct a))) (.relative toff)
  | .bgeAbsoluteRel rs a toff => .compare .ge rs (.source (.memory (.absolute a))) (.relative toff)
  | .bgeRelativeRel rs off toff => .compare .ge rs (.source (.memory (.relative off))) (.relative toff)
  | .bgeIndirectYRel rs toff => .compare .ge rs (.source (.memory .indirectY)) (.relative toff)
  | .bgeIndexedYRel rs off toff => .compare .ge rs (.source (.memory (.indexedY off))) (.relative toff)
  | .bgeIndirectZRel rs toff => .compare .ge rs (.source (.memory .indirectZ)) (.relative toff)
  | .bgeIndexedZRel rs off toff => .compare .ge rs (.source (.memory (.indexedZ off))) (.relative toff)
  | .bgeRegisterAbs rs rs2 t => .compare .ge rs (.register rs2) (.absolute t)
  | .bgeImmediateAbs rs v t => .compare .ge rs (.source (.immediate v)) (.absolute t)
  | .bgeDirectAbs rs a t => .compare .ge rs (.source (.memory (.direct a))) (.absolute t)
  | .bgeAbsoluteAbs rs a t => .compare .ge rs (.source (.memory (.absolute a))) (.absolute t)
  | .bgeRelativeAbs rs off t => .compare .ge rs (.source (.memory (.relative off))) (.absolute t)
  | .bgeIndirectYAbs rs t => .compare .ge rs (.source (.memory .indirectY)) (.absolute t)
  | .bgeIndexedYAbs rs off t => .compare .ge rs (.source (.memory (.indexedY off))) (.absolute t)
  | .bgeIndirectZAbs rs t => .compare .ge rs (.source (.memory .indirectZ)) (.absolute t)
  | .bgeIndexedZAbs rs off t => .compare .ge rs (.source (.memory (.indexedZ off))) (.absolute t)
  | .jmpRel off => .jump (.relative off)
  | .jmpAbs t => .jump (.absolute t)
  | .jmsRel off => .call (.relative off)
  | .jmsAbs t => .call (.absolute t)
  | .ret => .ret
  | .reti => .reti
  | .push rs => .push rs
  | .pop rd => .pop rd
  | .sb rd f => .setBit rd f
  | .rb rd f => .resetBit rd f
  | .hlt => .halt
  | .nop => .nop

/-- The instruction with a given structured view. -/
def Form.instr : Form → Instr
  | .load rd (.immediate v) => .ldImmediate rd v
  | .load rd (.memory (.direct a)) => .ldDirect rd a
  | .load rd (.memory (.absolute a)) => .ldAbsolute rd a
  | .load rd (.memory (.relative off)) => .ldRelative rd off
  | .load rd (.memory .indirectY) => .ldIndirectY rd
  | .load rd (.memory (.indexedY off)) => .ldIndexedY rd off
  | .load rd (.memory .indirectZ) => .ldIndirectZ rd
  | .load rd (.memory (.indexedZ off)) => .ldIndexedZ rd off
  | .store rs (.direct a) => .stDirect rs a
  | .store rs (.absolute a) => .stAbsolute rs a
  | .store rs (.relative off) => .stRelative rs off
  | .store rs .indirectY => .stIndirectY rs
  | .store rs (.indexedY off) => .stIndexedY rs off
  | .store rs .indirectZ => .stIndirectZ rs
  | .store rs (.indexedZ off) => .stIndexedZ rs off
  | .move rd rs => .mv rd rs
  | .alu .add rd (.register rs) => .addRegister rd rs
  | .alu .add rd (.source (.immediate v)) => .addImmediate rd v
  | .alu .add rd (.source (.memory (.direct a))) => .addDirect rd a
  | .alu .add rd (.source (.memory (.absolute a))) => .addAbsolute rd a
  | .alu .add rd (.source (.memory (.relative off))) => .addRelative rd off
  | .alu .add rd (.source (.memory .indirectY)) => .addIndirectY rd
  | .alu .add rd (.source (.memory (.indexedY off))) => .addIndexedY rd off
  | .alu .add rd (.source (.memory .indirectZ)) => .addIndirectZ rd
  | .alu .add rd (.source (.memory (.indexedZ off))) => .addIndexedZ rd off
  | .alu .sub rd (.register rs) => .subRegister rd rs
  | .alu .sub rd (.source (.immediate v)) => .subImmediate rd v
  | .alu .sub rd (.source (.memory (.direct a))) => .subDirect rd a
  | .alu .sub rd (.source (.memory (.absolute a))) => .subAbsolute rd a
  | .alu .sub rd (.source (.memory (.relative off))) => .subRelative rd off
  | .alu .sub rd (.source (.memory .indirectY)) => .subIndirectY rd
  | .alu .sub rd (.source (.memory (.indexedY off))) => .subIndexedY rd off
  | .alu .sub rd (.source (.memory .indirectZ)) => .subIndirectZ rd
  | .alu .sub rd (.source (.memory (.indexedZ off))) => .subIndexedZ rd off
  | .alu .and rd (.register rs) => .andRegister rd rs
  | .alu .and rd (.source (.immediate v)) => .andImmediate rd v
  | .alu .and rd (.source (.memory (.direct a))) => .andDirect rd a
  | .alu .and rd (.source (.memory (.absolute a))) => .andAbsolute rd a
  | .alu .and rd (.source (.memory (.relative off))) => .andRelative rd off
  | .alu .and rd (.source (.memory .indirectY)) => .andIndirectY rd
  | .alu .and rd (.source (.memory (.indexedY off))) => .andIndexedY rd off
  | .alu .and rd (.source (.memory .indirectZ)) => .andIndirectZ rd
  | .alu .and rd (.source (.memory (.indexedZ off))) => .andIndexedZ rd off
  | .alu .or rd (.register rs) => .orRegister rd rs
  | .alu .or rd (.source (.immediate v)) => .orImmediate rd v
  | .alu .or rd (.source (.memory (.direct a))) => .orDirect rd a
  | .alu .or rd (.source (.memory (.absolute a))) => .orAbsolute rd a
  | .alu .or rd (.source (.memory (.relative off))) => .orRelative rd off
  | .alu .or rd (.source (.memory .indirectY)) => .orIndirectY rd
  | .alu .or rd (.source (.memory (.indexedY off))) => .orIndexedY rd off
  | .alu .or rd (.source (.memory .indirectZ)) => .orIndirectZ rd
  | .alu .or rd (.source (.memory (.indexedZ off))) => .orIndexedZ rd off
  | .alu .xor rd (.register rs) => .xorRegister rd rs
  | .alu .xor rd (.source (.immediate v)) => .xorImmediate rd v
  | .alu .xor rd (.source (.memory (.direct a))) => .xorDirect rd a
  | .alu .xor rd (.source (.memory (.absolute a))) => .xorAbsolute rd a
  | .alu .xor rd (.source (.memory (.relative off))) => .xorRelative rd off
  | .alu .xor rd (.source (.memory .indirectY)) => .xorIndirectY rd
  | .alu .xor rd (.source (.memory (.indexedY off))) => .xorIndexedY rd off
  | .alu .xor rd (.source (.memory .indirectZ)) => .xorIndirectZ rd
  | .alu .xor rd (.source (.memory (.indexedZ off))) => .xorIndexedZ rd off
  | .unary .inc rd => .inc rd
  | .unary .dec rd => .dec rd
  | .unary .not rd => .not rd
  | .unary .lsl rd => .lsl rd
  | .unary .lsr rd => .lsr rd
  | .unary .lrl rd => .lrl rd
  | .unary .lrr rd => .lrr rd
  | .unary .lsb rd => .lsb rd
  | .bitBranch .set rs f (.relative off) => .bbRel rs f off
  | .bitBranch .set rs f (.absolute t) => .bbAbs rs f t
  | .bitBranch .clear rs f (.relative off) => .bnbRel rs f off
  | .bitBranch .clear rs f (.absolute t) => .bnbAbs rs f t
  | .countBranch .zero rd (.relative off) => .bzRel rd off
  | .countBranch .zero rd (.absolute t) => .bzAbs rd t
  | .countBranch .nonzero rd (.relative off) => .bnzRel rd off
  | .countBranch .nonzero rd (.absolute t) => .bnzAbs rd t
  | .compare .eq rs (.register rs2) (.relative toff) => .beqRegisterRel rs rs2 toff
  | .compare .eq rs (.source (.immediate v)) (.relative toff) => .beqImmediateRel rs v toff
  | .compare .eq rs (.source (.memory (.direct a))) (.relative toff) => .beqDirectRel rs a toff
  | .compare .eq rs (.source (.memory (.absolute a))) (.relative toff) => .beqAbsoluteRel rs a toff
  | .compare .eq rs (.source (.memory (.relative off))) (.relative toff) => .beqRelativeRel rs off toff
  | .compare .eq rs (.source (.memory .indirectY)) (.relative toff) => .beqIndirectYRel rs toff
  | .compare .eq rs (.source (.memory (.indexedY off))) (.relative toff) => .beqIndexedYRel rs off toff
  | .compare .eq rs (.source (.memory .indirectZ)) (.relative toff) => .beqIndirectZRel rs toff
  | .compare .eq rs (.source (.memory (.indexedZ off))) (.relative toff) => .beqIndexedZRel rs off toff
  | .compare .eq rs (.register rs2) (.absolute t) => .beqRegisterAbs rs rs2 t
  | .compare .eq rs (.source (.immediate v)) (.absolute t) => .beqImmediateAbs rs v t
  | .compare .eq rs (.source (.memory (.direct a))) (.absolute t) => .beqDirectAbs rs a t
  | .compare .eq rs (.source (.memory (.absolute a))) (.absolute t) => .beqAbsoluteAbs rs a t
  | .compare .eq rs (.source (.memory (.relative off))) (.absolute t) => .beqRelativeAbs rs off t
  | .compare .eq rs (.source (.memory .indirectY)) (.absolute t) => .beqIndirectYAbs rs t
  | .compare .eq rs (.source (.memory (.indexedY off))) (.absolute t) => .beqIndexedYAbs rs off t
  | .compare .eq rs (.source (.memory .indirectZ)) (.absolute t) => .beqIndirectZAbs rs t
  | .compare .eq rs (.source (.memory (.indexedZ off))) (.absolute t) => .beqIndexedZAbs rs off t
  | .compare .ne rs (.register rs2) (.relative toff) => .bneqRegisterRel rs rs2 toff
  | .compare .ne rs (.source (.immediate v)) (.relative toff) => .bneqImmediateRel rs v toff
  | .compare .ne rs (.source (.memory (.direct a))) (.relative toff) => .bneqDirectRel rs a toff
  | .compare .ne rs (.source (.memory (.absolute a))) (.relative toff) => .bneqAbsoluteRel rs a toff
  | .compare .ne rs (.source (.memory (.relative off))) (.relative toff) => .bneqRelativeRel rs off toff
  | .compare .ne rs (.source (.memory .indirectY)) (.relative toff) => .bneqIndirectYRel rs toff
  | .compare .ne rs (.source (.memory (.indexedY off))) (.relative toff) => .bneqIndexedYRel rs off toff
  | .compare .ne rs (.source (.memory .indirectZ)) (.relative toff) => .bneqIndirectZRel rs toff
  | .compare .ne rs (.source (.memory (.indexedZ off))) (.relative toff) => .bneqIndexedZRel rs off toff
  | .compare .ne rs (.register rs2) (.absolute t) => .bneqRegisterAbs rs rs2 t
  | .compare .ne rs (.source (.immediate v)) (.absolute t) => .bneqImmediateAbs rs v t
  | .compare .ne rs (.source (.memory (.direct a))) (.absolute t) => .bneqDirectAbs rs a t
  | .compare .ne rs (.source (.memory (.absolute a))) (.absolute t) => .bneqAbsoluteAbs rs a t
  | .compare .ne rs (.source (.memory (.relative off))) (.absolute t) => .bneqRelativeAbs rs off t
  | .compare .ne rs (.source (.memory .indirectY)) (.absolute t) => .bneqIndirectYAbs rs t
  | .compare .ne rs (.source (.memory (.indexedY off))) (.absolute t) => .bneqIndexedYAbs rs off t
  | .compare .ne rs (.source (.memory .indirectZ)) (.absolute t) => .bneqIndirectZAbs rs t
  | .compare .ne rs (.source (.memory (.indexedZ off))) (.absolute t) => .bneqIndexedZAbs rs off t
  | .compare .gt rs (.register rs2) (.relative toff) => .bgtRegisterRel rs rs2 toff
  | .compare .gt rs (.source (.immediate v)) (.relative toff) => .bgtImmediateRel rs v toff
  | .compare .gt rs (.source (.memory (.direct a))) (.relative toff) => .bgtDirectRel rs a toff
  | .compare .gt rs (.source (.memory (.absolute a))) (.relative toff) => .bgtAbsoluteRel rs a toff
  | .compare .gt rs (.source (.memory (.relative off))) (.relative toff) => .bgtRelativeRel rs off toff
  | .compare .gt rs (.source (.memory .indirectY)) (.relative toff) => .bgtIndirectYRel rs toff
  | .compare .gt rs (.source (.memory (.indexedY off))) (.relative toff) => .bgtIndexedYRel rs off toff
  | .compare .gt rs (.source (.memory .indirectZ)) (.relative toff) => .bgtIndirectZRel rs toff
  | .compare .gt rs (.source (.memory (.indexedZ off))) (.relative toff) => .bgtIndexedZRel rs off toff
  | .compare .gt rs (.register rs2) (.absolute t) => .bgtRegisterAbs rs rs2 t
  | .compare .gt rs (.source (.immediate v)) (.absolute t) => .bgtImmediateAbs rs v t
  | .compare .gt rs (.source (.memory (.direct a))) (.absolute t) => .bgtDirectAbs rs a t
  | .compare .gt rs (.source (.memory (.absolute a))) (.absolute t) => .bgtAbsoluteAbs rs a t
  | .compare .gt rs (.source (.memory (.relative off))) (.absolute t) => .bgtRelativeAbs rs off t
  | .compare .gt rs (.source (.memory .indirectY)) (.absolute t) => .bgtIndirectYAbs rs t
  | .compare .gt rs (.source (.memory (.indexedY off))) (.absolute t) => .bgtIndexedYAbs rs off t
  | .compare .gt rs (.source (.memory .indirectZ)) (.absolute t) => .bgtIndirectZAbs rs t
  | .compare .gt rs (.source (.memory (.indexedZ off))) (.absolute t) => .bgtIndexedZAbs rs off t
  | .compare .ge rs (.register rs2) (.relative toff) => .bgeRegisterRel rs rs2 toff
  | .compare .ge rs (.source (.immediate v)) (.relative toff) => .bgeImmediateRel rs v toff
  | .compare .ge rs (.source (.memory (.direct a))) (.relative toff) => .bgeDirectRel rs a toff
  | .compare .ge rs (.source (.memory (.absolute a))) (.relative toff) => .bgeAbsoluteRel rs a toff
  | .compare .ge rs (.source (.memory (.relative off))) (.relative toff) => .bgeRelativeRel rs off toff
  | .compare .ge rs (.source (.memory .indirectY)) (.relative toff) => .bgeIndirectYRel rs toff
  | .compare .ge rs (.source (.memory (.indexedY off))) (.relative toff) => .bgeIndexedYRel rs off toff
  | .compare .ge rs (.source (.memory .indirectZ)) (.relative toff) => .bgeIndirectZRel rs toff
  | .compare .ge rs (.source (.memory (.indexedZ off))) (.relative toff) => .bgeIndexedZRel rs off toff
  | .compare .ge rs (.register rs2) (.absolute t) => .bgeRegisterAbs rs rs2 t
  | .compare .ge rs (.source (.immediate v)) (.absolute t) => .bgeImmediateAbs rs v t
  | .compare .ge rs (.source (.memory (.direct a))) (.absolute t) => .bgeDirectAbs rs a t
  | .compare .ge rs (.source (.memory (.absolute a))) (.absolute t) => .bgeAbsoluteAbs rs a t
  | .compare .ge rs (.source (.memory (.relative off))) (.absolute t) => .bgeRelativeAbs rs off t
  | .compare .ge rs (.source (.memory .indirectY)) (.absolute t) => .bgeIndirectYAbs rs t
  | .compare .ge rs (.source (.memory (.indexedY off))) (.absolute t) => .bgeIndexedYAbs rs off t
  | .compare .ge rs (.source (.memory .indirectZ)) (.absolute t) => .bgeIndirectZAbs rs t
  | .compare .ge rs (.source (.memory (.indexedZ off))) (.absolute t) => .bgeIndexedZAbs rs off t
  | .jump (.relative off) => .jmpRel off
  | .jump (.absolute t) => .jmpAbs t
  | .call (.relative off) => .jmsRel off
  | .call (.absolute t) => .jmsAbs t
  | .ret => .ret
  | .reti => .reti
  | .push rs => .push rs
  | .pop rd => .pop rd
  | .setBit rd f => .sb rd f
  | .resetBit rd f => .rb rd f
  | .halt => .hlt
  | .nop => .nop

/-- The extension words an addressing mode takes, `n` of 30 R96. -/
def Place.words : Place → Nat
  | .direct _ => 1
  | .absolute _ => 2
  | .relative _ => 1
  | .indirectY => 0
  | .indexedY _ => 1
  | .indirectZ => 0
  | .indexedZ _ => 1

/-- `n` of 30 R96 for the eight mode codes. -/
def Source.words : Source → Nat
  | .immediate _ => 1
  | .memory p => p.words

/-- `n` of 30 R98: no extension word in the register form. -/
def Operand.words : Operand → Nat
  | .register _ => 0
  | .source s => s.words

/-- `t` of 30 R98: the words of a jump target. -/
def Target.words : Target → Nat
  | .relative _ => 1
  | .absolute _ => 2

/-- The length `L` in words (30 R98). -/
def Form.length : Form → Nat
  | .load _ src => 1 + src.words
  | .store _ p => 1 + p.words
  | .move _ _ => 1
  | .alu _ _ o => 1 + o.words
  | .unary _ _ => 1
  | .bitBranch _ _ _ t => 1 + t.words
  | .countBranch _ _ t => 1 + t.words
  | .compare _ _ o t => 1 + o.words + t.words
  | .jump t => 1 + t.words
  | .call t => 1 + t.words
  | .ret => 1
  | .reti => 1
  | .push _ => 1
  | .pop _ => 1
  | .setBit _ _ => 1
  | .resetBit _ _ => 1
  | .halt => 1
  | .nop => 1

/-- The length of an instruction in words, 1 to 5 (30 R98). -/
def Instr.length (i : Instr) : Nat := i.form.length

end Sys2Proof
end

