-- ==== Sys2Proof/Machine/State.lean ====
section
/-! DEFINITION. The state of the DWMC16 as plain data (spec/10_state.md R41), the reasons a step can stop, and the state
at reset (10 R42, spec/70_reset_and_hazards.md R230). -/

namespace Sys2Proof.Machine

/-- Memory as the host's cells. The word at address `a` (20 R50) is held as two cells: `2a` holds its bits 7 to 0 and
`2a + 1` its bits 15 to 8. No access of the machine sees the halves apart (20 R56 to R58); log entry 18. -/
abbrev Memory := List Host.Cell

/-- What an unlisted cell reads as: no value (20 R55, 10 R43; log entry 17). -/
def Memory.readByte : Memory → Nat → Option Byte
  | [], _ => none
  | (j, b) :: rest, k => if j = k then some b else Memory.readByte rest k

/-- The addresses of the cells strictly rise. -/
def Memory.rising : Memory → Bool
  | [] => true
  | [_] => true
  | c :: d :: rest => decide (c.1 < d.1) && Memory.rising (d :: rest)

/-- The cell that holds the other half of the same word. -/
def partner (k : Nat) : Nat := if k % 2 = 0 then k + 1 else k - 1

/-- Every listed cell lies in the address space of 2^24 words (20 R50). -/
def Memory.inSpace (m : Memory) : Bool := m.all fun c => decide (c.1 < 2 ^ 25)

/-- Words are written whole: a cell is listed exactly with its partner (20 R57, R60). -/
def Memory.wholeWords (m : Memory) : Bool := m.all fun c => (m.readByte (partner c.1)).isSome

/-- The one canonical form of memory: rising addresses, in the address space, whole words. No entry can equal what an
unlisted cell reads as, since that is no value. -/
def Memory.wf (m : Memory) : Bool := m.rising && m.inSpace && m.wholeWords

/-- The seven interrupt codes (10 R39, spec/60_exceptions.md R202); code 0 is how the empty FIFO reads and cannot be
presented. -/
inductive IrqCode
  | irq1 | irq2 | irq3 | irq4 | irq5 | irq6 | irq7
  deriving DecidableEq, Repr

/-- The number of a code, which is also the number of its vector (60 R204). -/
def IrqCode.number : IrqCode → Nat
  | .irq1 => 1
  | .irq2 => 2
  | .irq3 => 3
  | .irq4 => 4
  | .irq5 => 5
  | .irq6 => 6
  | .irq7 => 7

/-- What the environment and the host can do between two steps (70 R235; log entry 23). -/
inductive Input
  /-- `Irq(n)`: a source presents a code (60 R203). -/
  | irq (n : IrqCode)
  /-- The host asserts reset (70 R230). -/
  | reset
  deriving DecidableEq, Repr

/-- An access to the memory-mapped IO (20 R55, R62): a read with the value the device gave, or a write. -/
inductive BusEvent
  | deviceRead (a : Addr) (v : Word)
  | deviceWrite (a : Addr) (v : Word)
  deriving DecidableEq, Repr

/-- The state of the machine (10 R41). The last three fields are the model's own. -/
structure State where
  /-- `R00` to `R12` (10 R20, R23 to R26). -/
  regs : Vector Word 13
  /-- The stored bits of `R13`; I2, I1, I0 are read from the FIFO (10 R29, R33). -/
  flags : Word
  /-- The program counter, `R14` and `R15[7:0]` (10 R27). -/
  pc : Addr
  /-- The stored bits 15 to 8 of `R15`, which no rule reads or writes (10 R41, R45). -/
  pchHigh : Byte
  /-- The interrupt FIFO, head first (10 R39). -/
  irq : List IrqCode
  /-- The halted bit (10 R40). -/
  halted : Bool
  /-- Reset is asserted: the next step performs the reset sequence (spec/00_scope.md R12 item 1, 70 R230). -/
  resetAsserted : Bool
  /-- The one memory (20 R50). -/
  mem : Memory
  /-- The accesses to the memory-mapped IO so far, in the order they were made (20 R62, 70 R235). -/
  events : List BusEvent
  /-- The model's own: what the environment does before each of the coming steps, the next step's first (log entry 23). -/
  inputs : List (List Input)
  /-- The model's own: how many free values have been drawn (log entries 16 and 22). -/
  draws : Nat
  /-- The model's own: the named parameters of 00 R7 (log entry 1). No step changes them. -/
  params : Params
  deriving DecidableEq, Repr

/-- The conditions that stop the machine. None is an exception of the hardware, which has none (60 R200): a faulted run
has no further state. Each is safe: the model stops where the hardware may go on. -/
inductive Fault
  /-- `ReservedInstruction(w)`: the words at the program counter are no instruction (30 R105 to R108). Raised by the
  fetch. Safe. -/
  | reservedInstruction (w : Word) (why : DecodeError)
  /-- An access to an address where nothing answers: the CPU is stuck (20 R52). Raised by every memory access. Safe. -/
  | unpopulated (a : Addr)
  /-- A read of a word that holds no value (10 R43, 20 R55, 70 R233). Raised by every memory read. Safe. -/
  | unwritten (a : Addr)
  deriving DecidableEq, Repr

/-- The forms and accesses the spec gives no meaning. Each is safe: the model stops where the hardware may go on. -/
inductive Refusal
  /-- An instruction that has no meaning yet, by its mnemonic. Raised by `exec` alone. Safe. -/
  | notModelled (mnemonic : String)
  /-- A register field of 14 or 15 (30 R109 (a), 10 R27 item 4). Raised by every meaning with a register field. Safe. -/
  | pcOperand
  /-- push or pop of R12 (30 R109 (b)). Raised by push and pop. Safe. -/
  | stackPointerOperand
  /-- A flag-writing instruction with destination R13 (30 R109 (c), 41 R131). Raised by the flag-writing ALU forms, bz
  and bnz. Safe. -/
  | flagRegisterDestination
  /-- A store to flash (20 R55). Raised by every memory write, where the platform does not ignore such a store. Safe. -/
  | flashStore (a : Addr)
  deriving DecidableEq, Repr

/-- The value the model names for each of R00 to R12 at reset, where the spec gives none (10 R42, R43): 0, and 0xFFFF for
the stack pointer, where the stack is meant to start. DESIGN CHOICE, unsafe, log entry 19. -/
def resetRegs : Vector Word 13 := #v[0, 0, 0, 0, 0, 0, 0, 0, 0, 0, 0, 0, 0xFFFF]

/-- The machine with reset just asserted (00 R12 item 1): its next step performs the reset sequence of 70 R230, which
fetches vector 0. IE = 0, FIFO empty, not halted (10 R42); the registers as log entry 19 names them; memory with nothing
listed. -/
def State.reset : State :=
  { regs := resetRegs
    flags := 0
    pc := 0
    pchHigh := 0
    irq := []
    halted := false
    resetAsserted := true
    mem := []
    events := []
    inputs := []
    draws := 0
    params := referenceParams }

end Sys2Proof.Machine
end

