-- ==== Sys2Proof/Machine/Flags.lean ====
section
/-! DEFINITION. Reading and writing the flag register R13 (spec/10_state.md R29 to R38) and every flag computation
(spec/41_alu.md R132). -/

namespace Sys2Proof.Machine

/-- The bit of R13 that holds a flag, `FLAG_BIT(n)` (10 R30). -/
def State.flagPos (s : State) (f : Flag) : Fin 16 := s.params.flagLayout.pos f

/-- The three bit positions of I2, I1, I0 in R13, the only ones software cannot write (10 R34). -/
def State.irqMask (s : State) : Word :=
  bitMask (s.flagPos .i2) ||| bitMask (s.flagPos .i1) ||| bitMask (s.flagPos .i0)

/-- The code `{I2,I1,I0}`: the head of the FIFO, 0 when it is empty (10 R33). -/
def State.irqHead (s : State) : Nat :=
  match s.irq with
  | [] => 0
  | n :: _ => n.number

/-- A read of R13: the interrupt code in the I positions, the stored bits elsewhere (10 R33). -/
def State.readFlags (s : State) : Word :=
  let v2 := setBitTo s.flags (s.flagPos .i2) (s.irqHead.testBit 2)
  let v1 := setBitTo v2 (s.flagPos .i1) (s.irqHead.testBit 1)
  setBitTo v1 (s.flagPos .i0) (s.irqHead.testBit 0)

/-- A write of R13: every bit but the I positions (10 R34). -/
def State.writeFlags (v : Word) (s : State) : State :=
  { s with flags := (v &&& ~~~ s.irqMask) ||| (s.flags &&& s.irqMask) }

/-- `Flag(n)` of 00 R11: the named flag, as a read of R13 shows it. -/
def State.flag (s : State) (f : Flag) : Bool := s.readFlags.getLsbD (s.flagPos f).val

/-- `SetFlag(n, b)` of 00 R11: one flag, the others unchanged (10 R31); on I2, I1, I0 it does nothing (10 R34). -/
def State.setFlag (f : Flag) (b : Bool) (s : State) : State :=
  s.writeFlags (setBitTo s.flags (s.flagPos f) b)

/-- Several flags set in turn. -/
def State.setFlags (l : List (Flag × Bool)) (s : State) : State :=
  l.foldl (fun t fb => t.setFlag fb.1 fb.2) s

/-- The seven arithmetic flags as an instruction computes them (41 R132). -/
structure ArithFlags where
  c : Bool
  qc : Bool
  hc : Bool
  tc : Bool
  z : Bool
  n : Bool
  of : Bool
  deriving DecidableEq, Repr

/-- "Affected Flags: C, QC, HC, TC, Z, N, O" (10 R32). -/
def ArithFlags.updates (a : ArithFlags) : List (Flag × Bool) :=
  [(.c, a.c), (.qc, a.qc), (.hc, a.hc), (.tc, a.tc), (.z, a.z), (.n, a.n), (.of, a.of)]

/-- The three flags of bz and bnz: C, Z, N (10 R32, 42 R163). -/
def ArithFlags.countUpdates (a : ArithFlags) : List (Flag × Bool) :=
  [(.c, a.c), (.z, a.z), (.n, a.n)]

/-- The carry out of the low `k` bits of `a + b`. -/
def carryOut (k : Nat) (a b : Word) : Bool := decide (2 ^ k ≤ a.toNat % 2 ^ k + b.toNat % 2 ^ k)

/-- The borrow into bit `k` of `a - b`. -/
def borrowInto (k : Nat) (a b : Word) : Bool := decide (a.toNat % 2 ^ k < b.toNat % 2 ^ k)

/-- `AddFlags(a, b)` of 41 R132. -/
def addFlags (a b : Word) : ArithFlags :=
  let r := a + b
  { c := carryOut 16 a b
    qc := carryOut 4 a b
    hc := carryOut 8 a b
    tc := carryOut 12 a b
    z := r == 0
    n := r.msb
    of := a.msb == b.msb && r.msb != a.msb }

/-- A borrow as the carry flag shows it under SUB_CARRY (41 R132). -/
def subCarryFlag : SubCarry → Bool → Bool
  | .borrow, b => b
  | .notBorrow, b => !b

/-- `SubFlags(a, b)` of 41 R132. -/
def subFlags (p : SubCarry) (a b : Word) : ArithFlags :=
  let r := a - b
  { c := subCarryFlag p (borrowInto 16 a b)
    qc := subCarryFlag p (borrowInto 4 a b)
    hc := subCarryFlag p (borrowInto 8 a b)
    tc := subCarryFlag p (borrowInto 12 a b)
    z := r == 0
    n := r.msb
    of := a.msb != b.msb && r.msb != a.msb }

/-- "Affected Flags: Z": the Z of a result (41 R137 to R140). -/
def zeroUpdate (r : Word) : List (Flag × Bool) := [(.z, r == 0)]

/-- "Affected Flags: Z, C" of the shifts: C takes the bit shifted out, Z the result's zero-ness (41 R141, R142). -/
def shiftUpdates (out : Bool) (r : Word) : List (Flag × Bool) := [(.c, out), (.z, r == 0)]

end Sys2Proof.Machine
end

