-- ==== Sys2Proof/Machine/Ops.lean ====
section
/-! DEFINITION. The operations every meaning is made of: memory, registers, stack, vectors, the interrupt FIFO, taking an
interrupt and returning from one, and the reset sequence. -/

namespace Sys2Proof.Machine

/-- Why an operation stops. -/
inductive Stop
  | fault (r : Fault)
  | refused (r : Refusal)
  deriving DecidableEq, Repr

/-- A stop as the outcome of a step. -/
def Stop.outcome : Stop → Host.Outcome State Fault Refusal
  | .fault r => .fault r
  | .refused r => .refused r

/-- The outcome of an instruction or a boundary action. -/
def finish : Except Stop State → Host.Outcome State Fault Refusal
  | .ok s => .next s
  | .error e => e.outcome

/-! ### Memory (spec/20_memory.md) -/

/-- One cell replaced or listed, the addresses still rising. -/
def Memory.writeByte : Memory → Nat → Byte → Memory
  | [], k, b => [(k, b)]
  | (j, c) :: rest, k, b =>
    if k < j then (k, b) :: (j, c) :: rest
    else if k = j then (k, b) :: rest
    else (j, c) :: Memory.writeByte rest k b

/-- The word held at an address, where both its cells are listed (log entry 18). -/
def Memory.readWord (m : Memory) (a : Addr) : Option Word :=
  match m.readByte (2 * a.toNat), m.readByte (2 * a.toNat + 1) with
  | some lo, some hi => some (hi ++ lo)
  | _, _ => none

/-- The word at an address replaced, whole (20 R57, R60). -/
def Memory.writeWord (m : Memory) (a : Addr) (v : Word) : Memory :=
  (m.writeByte (2 * a.toNat) (v.extractLsb' 0 8)).writeByte (2 * a.toNat + 1) (v.extractLsb' 8 8)

/-- What answers at an address (20 R52, R53, parameter MEM_MAP). -/
def kindAt (p : Params) (a : Addr) : Option MemKind :=
  (p.memMap.find? fun r => decide (r.first ≤ a.toNat) && decide (a.toNat ≤ r.last)).map Region.kind

/-- The state after a device read at `a`: the event is recorded and one free value used up (20 R62). -/
def State.afterDeviceRead (a : Addr) (s : State) : State :=
  { s with events := s.events ++ [.deviceRead a (Config.freeWord s.draws)], draws := s.draws + 1 }

/-- `MemRead(a, 1)` (20 R55, R56): the word last written in RAM, the programmed word in flash, a free value from a
device; stuck where nothing answers or the word holds no value. -/
def State.memRead (a : Addr) (s : State) : Except Stop (Word × State) :=
  match kindAt s.params a with
  | none => .error (.fault (.unpopulated a))
  | some .device => .ok (Config.freeWord s.draws, s.afterDeviceRead a)
  | some .ram | some .flash =>
    match s.mem.readWord a with
    | some v => .ok (v, s)
    | none => .error (.fault (.unwritten a))

/-- `MemWrite(a, 1, v)` (20 R55, R57): RAM takes the word, a device gets it as an event, flash refuses it (or ignores it,
where the platform does), nothing answers elsewhere. -/
def State.memWrite (a : Addr) (v : Word) (s : State) : Except Stop State :=
  match kindAt s.params a with
  | none => .error (.fault (.unpopulated a))
  | some .ram => .ok { s with mem := s.mem.writeWord a v }
  | some .device => .ok { s with events := s.events ++ [.deviceWrite a v] }
  | some .flash =>
    match s.params.flashStore with
    | .refuse => .error (.refused (.flashStore a))
    | .ignore => .ok s

/-- `n` words at ascending addresses from `a`, modulo 2^24 (20 R58, R59). -/
def readWords : Nat → Addr → State → Except Stop (List Word × State)
  | 0, _, s => .ok ([], s)
  | n + 1, a, s => do
    let (w, s1) ← s.memRead a
    let (ws, s2) ← readWords n (a + 1) s1
    .ok (w :: ws, s2)

/-! ### Registers (spec/10_state.md R20 to R28) -/

/-- A read of the register bank (10 R21). R14 and R15 are the halves of the program counter (10 R27); an instruction
that names one is refused before it reads it (30 R109; log entry 37). -/
def State.readReg (r : Reg) (s : State) : Word :=
  if h : r.val < 13 then s.regs[r.val]
  else if r.val = 13 then s.readFlags
  else if r.val = 14 then lowPart s.pc
  else s.pchHigh ++ segment s.pc

/-- A write of the register bank (10 R22); R13 by the masked write of 10 R34. An instruction that names R14 or R15 is
refused before it writes it (30 R109; log entry 37). -/
def State.writeReg (r : Reg) (v : Word) (s : State) : State :=
  if h : r.val < 13 then { s with regs := s.regs.set r.val v }
  else if r.val = 13 then s.writeFlags v
  else if r.val = 14 then { s with pc := segment s.pc ++ v }
  else { s with pc := v.extractLsb' 0 8 ++ lowPart s.pc, pchHigh := v.extractLsb' 8 8 }

/-- `SP`, which is `x[12]` (10 R26). -/
def State.sp (s : State) : Word := s.regs[12]

/-- The stack pointer replaced. -/
def State.setSp (v : Word) (s : State) : State := { s with regs := s.regs.set 12 v }

/-- `Yaddr = {x[9][7:0], x[8]}` (10 R24). -/
def State.yAddr (s : State) : Addr := joinAddr s.regs[9] s.regs[8]

/-- `Zaddr = {x[11][7:0], x[10]}` (10 R25). -/
def State.zAddr (s : State) : Addr := joinAddr s.regs[11] s.regs[10]

/-- The program counter replaced. -/
def State.setPc (a : Addr) (s : State) : State := { s with pc := a }

/-- `pc <- PC0 + L`, modulo 2^24 (10 R27). -/
def State.advance (l : Nat) (s : State) : State := s.setPc (s.pc + BitVec.ofNat 24 l)

/-! ### The stack (10 R26, spec/42_control_flow.md R175) -/

/-- `StackAddr = {0x00, v}`: the stack lives in segment 0 (10 R26). -/
def stackAddr (v : Word) : Addr := joinAddr 0 v

/-- The stack address the next push writes, under STACK_DISCIPLINE (10 R26). -/
def State.pushSlot (s : State) : Addr :=
  match s.params.stack with
  | .writeThenDecrement => stackAddr s.sp
  | .decrementThenWrite => stackAddr (s.sp - 1)

/-- The stack address the next pop reads, under STACK_DISCIPLINE (10 R26). -/
def State.popSlot (s : State) : Addr :=
  match s.params.stack with
  | .writeThenDecrement => stackAddr (s.sp + 1)
  | .decrementThenWrite => stackAddr s.sp

/-- `Push(v)` (10 R26). -/
def State.push (v : Word) (s : State) : Except Stop State := do
  let s1 ← s.memWrite s.pushSlot v
  .ok (s1.setSp (s.sp - 1))

/-- `Pop()` (10 R26). -/
def State.pop (s : State) : Except Stop (Word × State) := do
  let (v, s1) ← s.memRead s.popSlot
  .ok (v, s1.setSp (s.sp + 1))

/-- A list of words pushed in order. -/
def State.pushAll : List Word → State → Except Stop State
  | [], s => .ok s
  | v :: vs, s => do
    let s1 ← s.push v
    s1.pushAll vs

/-- `PushAddr(a)` (42 R175): two words, the high part first under the reference order. -/
def State.pushAddr (a : Addr) (s : State) : Except Stop State := s.pushAll (addrWords s.params.stackOrder a)

/-- `PopAddr()` (42 R175): the two words in the opposite order; bits 15 to 8 of the high word are ignored. -/
def State.popAddr (s : State) : Except Stop (Addr × State) := do
  let (w1, s1) ← s.pop
  let (w0, s2) ← s1.pop
  .ok (pairAddr s.params.stackOrder w0 w1, s2)

/-! ### Interrupts (spec/60_exceptions.md) -/

/-- `Irq(n)` (60 R203): appended at the tail; a fifth request is lost. -/
def State.arrive (n : IrqCode) (s : State) : State :=
  if s.irq.length < 4 then { s with irq := s.irq ++ [n] } else s

/-- One action of the environment or the host (70 R235). -/
def State.input (s : State) : Input → State
  | .irq n => s.arrive n
  | .reset => { s with resetAsserted := true }

/-- What the environment does before this step (00 R12; log entry 23). -/
def State.takeInputs (s : State) : State :=
  match s.inputs with
  | [] => s
  | now :: later => now.foldl State.input { s with inputs := later }

/-- The address of the first word of vector `n` (60 R204). -/
def vectorSlot (n : Nat) : Addr := BitVec.ofNat 24 (2 * n)

/-- `Vector(n)` (60 R204): two words, read afresh at every use; the unused byte is ignored. -/
def State.readVector (n : Nat) (s : State) : Except Stop (Addr × State) := do
  let (w0, s1) ← s.memRead (vectorSlot n)
  let (w1, s2) ← s1.memRead (vectorSlot n + 1)
  .ok (pairAddr s.params.vectorOrder w0 w1, s2)

/-- The request that is taken at this boundary: the FIFO's head, exactly while IE = 1 (60 R205). -/
def State.dueInterrupt (s : State) : Option IrqCode :=
  if s.flag .ie then s.irq.head? else none

/-- R00 to R11, in ascending order: what entry pushes and reti restores besides F (60 R207, 42 R177). -/
def State.savedRegs (s : State) : List Word :=
  [s.regs[0], s.regs[1], s.regs[2], s.regs[3], s.regs[4], s.regs[5],
   s.regs[6], s.regs[7], s.regs[8], s.regs[9], s.regs[10], s.regs[11]]

/-- The request at the head is removed (60 R207, R210). -/
def State.dropRequest (s : State) : State := { s with irq := s.irq.tail }

/-- Taking an interrupt (60 R207): the request is consumed; the return address, R00 to R11 and F are pushed; IE is
cleared; the halt ends; the pc is the handler's address. -/
def State.enterInterrupt (n : IrqCode) (s : State) : Except Stop State := do
  let s0 := s.dropRequest
  let s1 ← s0.pushAddr s0.pc
  let s2 ← s1.pushAll s0.savedRegs
  let s3 ← s2.push s0.readFlags
  let s4 := { s3.setFlag .ie false with halted := false }
  let (target, s5) ← s4.readVector n.number
  .ok (s5.setPc target)

/-- Registers popped in the order given (42 R177). -/
def State.popRegs : List Reg → State → Except Stop State
  | [], s => .ok s
  | r :: rs, s => do
    let (v, s1) ← s.pop
    (s1.writeReg r v).popRegs rs

/-- R13, then R11 down to R00: the order in which reti restores them (42 R177). -/
def restoreOrder : List Reg := [13, 11, 10, 9, 8, 7, 6, 5, 4, 3, 2, 1, 0]

/-- Returning from an interrupt (42 R177, 60 R209, R210): with a request waiting, straight to its handler and nothing
popped; otherwise F, R11 to R00 and the return address are restored. -/
def State.returnFromInterrupt (s : State) : Except Stop State :=
  match s.irq with
  | n :: _ => do
    let (target, s1) ← s.dropRequest.readVector n.number
    .ok (s1.setPc target)
  | [] => do
    let s1 ← s.popRegs restoreOrder
    let (target, s2) ← s1.popAddr
    .ok (s2.setPc target)

/-! ### Reset (spec/70_reset_and_hazards.md) -/

/-- The reset sequence (70 R230): FIFO empty, IE = 0, not halted, pc from vector 0, memory unchanged. Every register and
flag with no reset value takes the one the model names (log entries 19 and 21). -/
def State.performReset (s : State) : Except Stop State := do
  let s0 := { s with
    regs := resetRegs, flags := 0, pchHigh := 0, irq := [], halted := false, resetAsserted := false }
  let (target, s1) ← s0.readVector 0
  .ok (s1.setPc target)

end Sys2Proof.Machine
end

