-- ==== Sys2Proof/WellFormed.lean ====
section
/-! DEFINITION. Which instructions the spec gives a meaning: the forms of spec/30_encoding.md R109 are encodings the
hardware accepts and the spec refuses. -/

namespace Sys2Proof

/-- The register fields an instruction names (30 R85). -/
def Form.registers : Form → List Reg
  | .load rd _ => [rd]
  | .store rs _ => [rs]
  | .move rd rs => [rd, rs]
  | .alu _ rd (.register rs) => [rd, rs]
  | .alu _ rd (.source _) => [rd]
  | .unary _ rd => [rd]
  | .bitBranch _ rs _ _ => [rs]
  | .countBranch _ rd _ => [rd]
  | .compare _ rs (.register rs2) _ => [rs, rs2]
  | .compare _ rs (.source _) _ => [rs]
  | .jump _ => []
  | .call _ => []
  | .ret => []
  | .reti => []
  | .push rs => [rs]
  | .pop rd => [rd]
  | .setBit rd _ => [rd]
  | .resetBit rd _ => [rd]
  | .halt => []
  | .nop => []

/-- R109 (a): some register field is 14 or 15 (spec/10_state.md R27 item 4). -/
def Form.namesPc (f : Form) : Bool := f.registers.any fun r => decide (14 ≤ r.val)

/-- R109 (b): push or pop of the stack pointer. -/
def Form.stacksSp : Form → Bool
  | .push rs => rs == 12
  | .pop rd => rd == 12
  | _ => false

/-- lrl, lrr and lsb write no flag as a side effect; the other one-register operations do (spec/41_alu.md R131). -/
def UnaryOp.writesFlags : UnaryOp → Bool
  | .inc | .dec | .not | .lsl | .lsr => true
  | .lrl | .lrr | .lsb => false

/-- R109 (c): an instruction that writes flags as a side effect has R13 as its destination (41 R131). -/
def Form.flagsIntoF : Form → Bool
  | .alu _ rd _ => rd == 13
  | .unary op rd => op.writesFlags && rd == 13
  | .countBranch _ rd _ => rd == 13
  | _ => false

/-- The spec gives the form a meaning: none of R109 (a), (b), (c) applies. -/
def Form.wf (f : Form) : Bool := !f.namesPc && !f.stacksSp && !f.flagsIntoF

/-- The spec gives the instruction a meaning (30 R109). -/
def Instr.wf (i : Instr) : Bool := i.form.wf

end Sys2Proof
end

