-- ==== Sys2Proof/Machine/Operands.lean ====
section
/-! DEFINITION. Effective addresses, second operands, jump targets and the forms the spec refuses
(spec/30_encoding.md R89 to R97, R109). -/

namespace Sys2Proof.Machine

/-- `EA(mode, first)` (30 R91 to R96), 24 bits; the program counter read is PC0 (10 R27). -/
def State.ea (s : State) : Place → Addr
  | .direct a => segment s.pc ++ a
  | .absolute a => a
  | .relative off => s.pc + sext24 off
  | .indirectY => s.yAddr
  | .indexedY off => s.yAddr + sext24 off
  | .indirectZ => s.zAddr
  | .indexedZ off => s.zAddr + sext24 off

/-- `Operand(mode, first)` (30 R89, R90): the constant, or the word at the effective address. -/
def State.source (s : State) : Source → Except Stop (Word × State)
  | .immediate v => .ok (v, s)
  | .memory q => s.memRead (s.ea q)

/-- The second operand of an OS = 0 or OS = 1 form (30 R89, 41 R130). -/
def State.operand (s : State) : Operand → Except Stop (Word × State)
  | .register r => .ok (s.readReg r, s)
  | .source o => s.source o

/-- `Target(brt, first)` (30 R97), from PC0. -/
def State.target (s : State) : Target → Addr
  | .relative off => s.pc + sext24 off
  | .absolute a => a

/-- Why the spec refuses a form, if it does (30 R109). -/
def refusalOf (f : Form) : Option Refusal :=
  if f.namesPc then some .pcOperand
  else if f.stacksSp then some .stackPointerOperand
  else if f.flagsIntoF then some .flagRegisterDestination
  else none

/-- The step 5 of 30 R99: the refusals of R109, before anything is executed. -/
def guardForm (f : Form) : Except Stop Unit :=
  match refusalOf f with
  | some r => .error (.refused r)
  | none => .ok ()

end Sys2Proof.Machine
end

