-- ==== Sys2Proof/Machine/Alu.lean ====
section
/-! DEFINITION. Arithmetic, logic, shifts, rotates and the byte swap (spec/41_alu.md R130 to R147). -/

namespace Sys2Proof.Machine

/-- The result of a two-operand operation, modulo 2^16 (41 R133, R135, R137 to R139). -/
def aluResult : AluOp → Word → Word → Word
  | .add, a, b => a + b
  | .sub, a, b => a - b
  | .and, a, b => a &&& b
  | .or, a, b => a ||| b
  | .xor, a, b => a ^^^ b

/-- The flags a two-operand operation writes (41 R132, R133, R135, R137 to R139). -/
def aluUpdates (p : SubCarry) : AluOp → Word → Word → List (Flag × Bool)
  | .add, a, b => (addFlags a b).updates
  | .sub, a, b => (subFlags p a b).updates
  | .and, a, b => zeroUpdate (a &&& b)
  | .or, a, b => zeroUpdate (a ||| b)
  | .xor, a, b => zeroUpdate (a ^^^ b)

/-- The result of a one-register operation on `a` with the old carry `c` (41 R134, R136, R140 to R144, R146). -/
def unaryResult : UnaryOp → Word → Bool → Word
  | .inc, a, _ => a + 1
  | .dec, a, _ => a - 1
  | .not, a, _ => ~~~ a
  | .lsl, a, c => a.extractLsb' 0 15 ++ BitVec.ofBool c
  | .lsr, a, c => BitVec.ofBool c ++ a.extractLsb' 1 15
  | .lrl, a, _ => a.extractLsb' 0 15 ++ BitVec.ofBool a.msb
  | .lrr, a, _ => BitVec.ofBool (a.getLsbD 0) ++ a.extractLsb' 1 15
  | .lsb, a, _ => a.extractLsb' 0 8 ++ a.extractLsb' 8 8

/-- The flags a one-register operation writes (10 R32, 41 R134, R136, R140 to R144, R146). -/
def unaryUpdates (p : SubCarry) : UnaryOp → Word → Bool → List (Flag × Bool)
  | .inc, a, _ => (addFlags a 1).updates
  | .dec, a, _ => (subFlags p a 1).updates
  | .not, a, _ => zeroUpdate (~~~ a)
  | .lsl, a, c => shiftUpdates a.msb (unaryResult .lsl a c)
  | .lsr, a, c => shiftUpdates (a.getLsbD 0) (unaryResult .lsr a c)
  | .lrl, _, _ => []
  | .lrr, _, _ => []
  | .lsb, _, _ => []

/-- `op Rd, Rs` and `op Rd, operand` (41 R130, R133, R135, R137 to R139). -/
def aluInto (op : AluOp) (rd : Reg) (o : Operand) (s : State) : Except Stop State := do
  guardForm (.alu op rd o)
  let (b, s1) ← s.operand o
  let a := s.readReg rd
  .ok (((s1.setFlags (aluUpdates s.params.subCarry op a b)).writeReg rd (aluResult op a b)).advance (1 + o.words))

/-- `op Rd` (41 R134, R136, R140 to R144, R146). -/
def unaryOn (op : UnaryOp) (rd : Reg) (s : State) : Except Stop State := do
  guardForm (.unary op rd)
  let a := s.readReg rd
  let c := s.flag .c
  .ok (((s.setFlags (unaryUpdates s.params.subCarry op a c)).writeReg rd (unaryResult op a c)).advance 1)

/-- `add Rd, Rs`: R133. -/
def execAddRegister (rd : Reg) (rs : Reg) (s : State) : Host.Outcome State Fault Refusal :=
  finish (aluInto .add rd (.register rs) s)

/-- `add Rd, immediate`: R133. -/
def execAddImmediate (rd : Reg) (v : Word) (s : State) : Host.Outcome State Fault Refusal :=
  finish (aluInto .add rd (.source (.immediate v)) s)

/-- `add Rd, (a16)`: R133. -/
def execAddDirect (rd : Reg) (a : Word) (s : State) : Host.Outcome State Fault Refusal :=
  finish (aluInto .add rd (.source (.memory (.direct a))) s)

/-- `add Rd, (a24)`: R133. -/
def execAddAbsolute (rd : Reg) (a : Addr) (s : State) : Host.Outcome State Fault Refusal :=
  finish (aluInto .add rd (.source (.memory (.absolute a))) s)

/-- `add Rd, #off16`: R133. -/
def execAddRelative (rd : Reg) (off : Word) (s : State) : Host.Outcome State Fault Refusal :=
  finish (aluInto .add rd (.source (.memory (.relative off))) s)

/-- `add Rd, @Y`: R133. -/
def execAddIndirectY (rd : Reg) (s : State) : Host.Outcome State Fault Refusal :=
  finish (aluInto .add rd (.source (.memory .indirectY)) s)

/-- `add Rd, @Y off16`: R133. -/
def execAddIndexedY (rd : Reg) (off : Word) (s : State) : Host.Outcome State Fault Refusal :=
  finish (aluInto .add rd (.source (.memory (.indexedY off))) s)

/-- `add Rd, @Z`: R133. -/
def execAddIndirectZ (rd : Reg) (s : State) : Host.Outcome State Fault Refusal :=
  finish (aluInto .add rd (.source (.memory .indirectZ)) s)

/-- `add Rd, @Z off16`: R133. -/
def execAddIndexedZ (rd : Reg) (off : Word) (s : State) : Host.Outcome State Fault Refusal :=
  finish (aluInto .add rd (.source (.memory (.indexedZ off))) s)

/-- `sub Rd, Rs`: R135. -/
def execSubRegister (rd : Reg) (rs : Reg) (s : State) : Host.Outcome State Fault Refusal :=
  finish (aluInto .sub rd (.register rs) s)

/-- `sub Rd, immediate`: R135. -/
def execSubImmediate (rd : Reg) (v : Word) (s : State) : Host.Outcome State Fault Refusal :=
  finish (aluInto .sub rd (.source (.immediate v)) s)

/-- `sub Rd, (a16)`: R135. -/
def execSubDirect (rd : Reg) (a : Word) (s : State) : Host.Outcome State Fault Refusal :=
  finish (aluInto .sub rd (.source (.memory (.direct a))) s)

/-- `sub Rd, (a24)`: R135. -/
def execSubAbsolute (rd : Reg) (a : Addr) (s : State) : Host.Outcome State Fault Refusal :=
  finish (aluInto .sub rd (.source (.memory (.absolute a))) s)

/-- `sub Rd, #off16`: R135. -/
def execSubRelative (rd : Reg) (off : Word) (s : State) : Host.Outcome State Fault Refusal :=
  finish (aluInto .sub rd (.source (.memory (.relative off))) s)

/-- `sub Rd, @Y`: R135. -/
def execSubIndirectY (rd : Reg) (s : State) : Host.Outcome State Fault Refusal :=
  finish (aluInto .sub rd (.source (.memory .indirectY)) s)

/-- `sub Rd, @Y off16`: R135. -/
def execSubIndexedY (rd : Reg) (off : Word) (s : State) : Host.Outcome State Fault Refusal :=
  finish (aluInto .sub rd (.source (.memory (.indexedY off))) s)

/-- `sub Rd, @Z`: R135. -/
def execSubIndirectZ (rd : Reg) (s : State) : Host.Outcome State Fault Refusal :=
  finish (aluInto .sub rd (.source (.memory .indirectZ)) s)

/-- `sub Rd, @Z off16`: R135. -/
def execSubIndexedZ (rd : Reg) (off : Word) (s : State) : Host.Outcome State Fault Refusal :=
  finish (aluInto .sub rd (.source (.memory (.indexedZ off))) s)

/-- `and Rd, Rs`: R137. -/
def execAndRegister (rd : Reg) (rs : Reg) (s : State) : Host.Outcome State Fault Refusal :=
  finish (aluInto .and rd (.register rs) s)

/-- `and Rd, immediate`: R137. -/
def execAndImmediate (rd : Reg) (v : Word) (s : State) : Host.Outcome State Fault Refusal :=
  finish (aluInto .and rd (.source (.immediate v)) s)

/-- `and Rd, (a16)`: R137. -/
def execAndDirect (rd : Reg) (a : Word) (s : State) : Host.Outcome State Fault Refusal :=
  finish (aluInto .and rd (.source (.memory (.direct a))) s)

/-- `and Rd, (a24)`: R137. -/
def execAndAbsolute (rd : Reg) (a : Addr) (s : State) : Host.Outcome State Fault Refusal :=
  finish (aluInto .and rd (.source (.memory (.absolute a))) s)

/-- `and Rd, #off16`: R137. -/
def execAndRelative (rd : Reg) (off : Word) (s : State) : Host.Outcome State Fault Refusal :=
  finish (aluInto .and rd (.source (.memory (.relative off))) s)

/-- `and Rd, @Y`: R137. -/
def execAndIndirectY (rd : Reg) (s : State) : Host.Outcome State Fault Refusal :=
  finish (aluInto .and rd (.source (.memory .indirectY)) s)

/-- `and Rd, @Y off16`: R137. -/
def execAndIndexedY (rd : Reg) (off : Word) (s : State) : Host.Outcome State Fault Refusal :=
  finish (aluInto .and rd (.source (.memory (.indexedY off))) s)

/-- `and Rd, @Z`: R137. -/
def execAndIndirectZ (rd : Reg) (s : State) : Host.Outcome State Fault Refusal :=
  finish (aluInto .and rd (.source (.memory .indirectZ)) s)

/-- `and Rd, @Z off16`: R137. -/
def execAndIndexedZ (rd : Reg) (off : Word) (s : State) : Host.Outcome State Fault Refusal :=
  finish (aluInto .and rd (.source (.memory (.indexedZ off))) s)

/-- `or Rd, Rs`: R138. -/
def execOrRegister (rd : Reg) (rs : Reg) (s : State) : Host.Outcome State Fault Refusal :=
  finish (aluInto .or rd (.register rs) s)

/-- `or Rd, immediate`: R138. -/
def execOrImmediate (rd : Reg) (v : Word) (s : State) : Host.Outcome State Fault Refusal :=
  finish (aluInto .or rd (.source (.immediate v)) s)

/-- `or Rd, (a16)`: R138. -/
def execOrDirect (rd : Reg) (a : Word) (s : State) : Host.Outcome State Fault Refusal :=
  finish (aluInto .or rd (.source (.memory (.direct a))) s)

/-- `or Rd, (a24)`: R138. -/
def execOrAbsolute (rd : Reg) (a : Addr) (s : State) : Host.Outcome State Fault Refusal :=
  finish (aluInto .or rd (.source (.memory (.absolute a))) s)

/-- `or Rd, #off16`: R138. -/
def execOrRelative (rd : Reg) (off : Word) (s : State) : Host.Outcome State Fault Refusal :=
  finish (aluInto .or rd (.source (.memory (.relative off))) s)

/-- `or Rd, @Y`: R138. -/
def execOrIndirectY (rd : Reg) (s : State) : Host.Outcome State Fault Refusal :=
  finish (aluInto .or rd (.source (.memory .indirectY)) s)

/-- `or Rd, @Y off16`: R138. -/
def execOrIndexedY (rd : Reg) (off : Word) (s : State) : Host.Outcome State Fault Refusal :=
  finish (aluInto .or rd (.source (.memory (.indexedY off))) s)

/-- `or Rd, @Z`: R138. -/
def execOrIndirectZ (rd : Reg) (s : State) : Host.Outcome State Fault Refusal :=
  finish (aluInto .or rd (.source (.memory .indirectZ)) s)

/-- `or Rd, @Z off16`: R138. -/
def execOrIndexedZ (rd : Reg) (off : Word) (s : State) : Host.Outcome State Fault Refusal :=
  finish (aluInto .or rd (.source (.memory (.indexedZ off))) s)

/-- `xor Rd, Rs`: R139. -/
def execXorRegister (rd : Reg) (rs : Reg) (s : State) : Host.Outcome State Fault Refusal :=
  finish (aluInto .xor rd (.register rs) s)

/-- `xor Rd, immediate`: R139. -/
def execXorImmediate (rd : Reg) (v : Word) (s : State) : Host.Outcome State Fault Refusal :=
  finish (aluInto .xor rd (.source (.immediate v)) s)

/-- `xor Rd, (a16)`: R139. -/
def execXorDirect (rd : Reg) (a : Word) (s : State) : Host.Outcome State Fault Refusal :=
  finish (aluInto .xor rd (.source (.memory (.direct a))) s)

/-- `xor Rd, (a24)`: R139. -/
def execXorAbsolute (rd : Reg) (a : Addr) (s : State) : Host.Outcome State Fault Refusal :=
  finish (aluInto .xor rd (.source (.memory (.absolute a))) s)

/-- `xor Rd, #off16`: R139. -/
def execXorRelative (rd : Reg) (off : Word) (s : State) : Host.Outcome State Fault Refusal :=
  finish (aluInto .xor rd (.source (.memory (.relative off))) s)

/-- `xor Rd, @Y`: R139. -/
def execXorIndirectY (rd : Reg) (s : State) : Host.Outcome State Fault Refusal :=
  finish (aluInto .xor rd (.source (.memory .indirectY)) s)

/-- `xor Rd, @Y off16`: R139. -/
def execXorIndexedY (rd : Reg) (off : Word) (s : State) : Host.Outcome State Fault Refusal :=
  finish (aluInto .xor rd (.source (.memory (.indexedY off))) s)

/-- `xor Rd, @Z`: R139. -/
def execXorIndirectZ (rd : Reg) (s : State) : Host.Outcome State Fault Refusal :=
  finish (aluInto .xor rd (.source (.memory .indirectZ)) s)

/-- `xor Rd, @Z off16`: R139. -/
def execXorIndexedZ (rd : Reg) (off : Word) (s : State) : Host.Outcome State Fault Refusal :=
  finish (aluInto .xor rd (.source (.memory (.indexedZ off))) s)

/-- `inc Rd`: R134. -/
def execInc (rd : Reg) (s : State) : Host.Outcome State Fault Refusal :=
  finish (unaryOn .inc rd s)

/-- `dec Rd`: R136. -/
def execDec (rd : Reg) (s : State) : Host.Outcome State Fault Refusal :=
  finish (unaryOn .dec rd s)

/-- `not Rd`: R140. -/
def execNot (rd : Reg) (s : State) : Host.Outcome State Fault Refusal :=
  finish (unaryOn .not rd s)

/-- `lsl Rd`: R141. -/
def execLsl (rd : Reg) (s : State) : Host.Outcome State Fault Refusal :=
  finish (unaryOn .lsl rd s)

/-- `lsr Rd`: R142. -/
def execLsr (rd : Reg) (s : State) : Host.Outcome State Fault Refusal :=
  finish (unaryOn .lsr rd s)

/-- `lrl Rd`: R143. -/
def execLrl (rd : Reg) (s : State) : Host.Outcome State Fault Refusal :=
  finish (unaryOn .lrl rd s)

/-- `lrr Rd`: R144. -/
def execLrr (rd : Reg) (s : State) : Host.Outcome State Fault Refusal :=
  finish (unaryOn .lrr rd s)

/-- `lsb Rd`: R146. -/
def execLsb (rd : Reg) (s : State) : Host.Outcome State Fault Refusal :=
  finish (unaryOn .lsb rd s)

end Sys2Proof.Machine
end

