-- ==== Sys2Proof/Machine/Control.lean ====
section
/-! DEFINITION. Bit tests, counting branches, compare-and-branch, jumps, calls and returns
(spec/42_control_flow.md R160 to R178). -/

namespace Sys2Proof.Machine

/-- The successor of a branch: the target when it is taken, `PC0 + L` when not (42 R160). -/
def State.branch (s : State) (taken : Bool) (t : Target) (l : Nat) (s1 : State) : State :=
  if taken then s1.setPc (s.target t) else s1.advance l

/-- The bit of `x[Rs]` that a bit test masks (42 R161, 30 R86). -/
def State.testedBit (s : State) (rs : Reg) (f : BitIndex) : Bool :=
  (s.readReg rs &&& bitMask (bitPos s.params.bitSelect f)) != 0

/-- `bb` and `bnb` (42 R161, R162): Z takes the masked word's zero-ness; the register is read before. -/
def branchOnBit (b : BitTest) (rs : Reg) (f : BitIndex) (t : Target) (s : State) : Except Stop State := do
  guardForm (.bitBranch b rs f t)
  let bit := s.testedBit rs f
  let taken := match b with
    | .set => bit
    | .clear => !bit
  .ok (s.branch taken t (1 + t.words) (s.setFlag .z (!bit)))

/-- The free values C, Z, N take on the path that does not decrement (42 R163, R164; log entry 22). -/
def State.drawCountFlags (s : State) : State :=
  { s.setFlags [(.c, Config.freeBit s.draws), (.z, Config.freeBit (s.draws + 1)), (.n, Config.freeBit (s.draws + 2))]
    with draws := s.draws + 3 }

/-- `bz` and `bnz` (42 R163, R164): a register that is not zero is decremented. -/
def branchAndCount (b : CountTest) (rd : Reg) (t : Target) (s : State) : Except Stop State := do
  guardForm (.countBranch b rd t)
  let a := s.readReg rd
  let taken := match b with
    | .zero => a == 0
    | .nonzero => a != 0
  let s1 :=
    if a == 0 then s.drawCountFlags
    else (s.setFlags (subFlags s.params.subCarry a 1).countUpdates).writeReg rd (a - 1)
  .ok (s.branch taken t (1 + t.words) s1)

/-- The comparison of two words under CMP_SIGNED (42 R165, R166 to R169). -/
def cmpHolds (signed : Bool) : Cmp → Word → Word → Bool
  | .eq, a, b => a == b
  | .ne, a, b => a != b
  | .gt, a, b => if signed then decide (b.toInt < a.toInt) else decide (b.toNat < a.toNat)
  | .ge, a, b => if signed then decide (b.toInt ≤ a.toInt) else decide (b.toNat ≤ a.toNat)

/-- `beq`, `bneq`, `bgt`, `bge` (42 R165 to R169): no flag and no register is written; the operand is read in any
case. -/
def branchOnCompare (c : Cmp) (rs : Reg) (o : Operand) (t : Target) (s : State) : Except Stop State := do
  guardForm (.compare c rs o t)
  let (b, s1) ← s.operand o
  .ok (s.branch (cmpHolds s.params.cmpSigned c (s.readReg rs) b) t (1 + o.words + t.words) s1)

/-- `jmp` (42 R171). -/
def jumpTo (t : Target) (s : State) : Except Stop State := .ok (s.setPc (s.target t))

/-- `jms` (42 R172): the return address is that of the next instruction, the target is taken from PC0. -/
def callTo (t : Target) (s : State) : Except Stop State := do
  let s1 ← s.pushAddr (s.pc + BitVec.ofNat 24 (1 + t.words))
  .ok (s1.setPc (s.target t))

/-- `ret` (42 R173). -/
def returnFromCall (s : State) : Except Stop State := do
  let (a, s1) ← s.popAddr
  .ok (s1.setPc a)

/-- `bb Rs, f, relative target`: R161. -/
def execBbRel (rs : Reg) (f : BitIndex) (off : Word) (s : State) : Host.Outcome State Fault Refusal :=
  finish (branchOnBit .set rs f (.relative off) s)

/-- `bb Rs, f, absolute target`: R161. -/
def execBbAbs (rs : Reg) (f : BitIndex) (t : Addr) (s : State) : Host.Outcome State Fault Refusal :=
  finish (branchOnBit .set rs f (.absolute t) s)

/-- `bnb Rs, f, relative target`: R162. -/
def execBnbRel (rs : Reg) (f : BitIndex) (off : Word) (s : State) : Host.Outcome State Fault Refusal :=
  finish (branchOnBit .clear rs f (.relative off) s)

/-- `bnb Rs, f, absolute target`: R162. -/
def execBnbAbs (rs : Reg) (f : BitIndex) (t : Addr) (s : State) : Host.Outcome State Fault Refusal :=
  finish (branchOnBit .clear rs f (.absolute t) s)

/-- `bz Rd, relative target`: R163. -/
def execBzRel (rd : Reg) (off : Word) (s : State) : Host.Outcome State Fault Refusal :=
  finish (branchAndCount .zero rd (.relative off) s)

/-- `bz Rd, absolute target`: R163. -/
def execBzAbs (rd : Reg) (t : Addr) (s : State) : Host.Outcome State Fault Refusal :=
  finish (branchAndCount .zero rd (.absolute t) s)

/-- `bnz Rd, relative target`: R164. -/
def execBnzRel (rd : Reg) (off : Word) (s : State) : Host.Outcome State Fault Refusal :=
  finish (branchAndCount .nonzero rd (.relative off) s)

/-- `bnz Rd, absolute target`: R164. -/
def execBnzAbs (rd : Reg) (t : Addr) (s : State) : Host.Outcome State Fault Refusal :=
  finish (branchAndCount .nonzero rd (.absolute t) s)

/-- `beq Rs, Rs2, relative target`: R166. -/
def execBeqRegisterRel (rs : Reg) (rs2 : Reg) (toff : Word) (s : State) : Host.Outcome State Fault Refusal :=
  finish (branchOnCompare .eq rs (.register rs2) (.relative toff) s)

/-- `beq Rs, immediate, relative target`: R166. -/
def execBeqImmediateRel (rs : Reg) (v : Word) (toff : Word) (s : State) : Host.Outcome State Fault Refusal :=
  finish (branchOnCompare .eq rs (.source (.immediate v)) (.relative toff) s)

/-- `beq Rs, (a16), relative target`: R166. -/
def execBeqDirectRel (rs : Reg) (a : Word) (toff : Word) (s : State) : Host.Outcome State Fault Refusal :=
  finish (branchOnCompare .eq rs (.source (.memory (.direct a))) (.relative toff) s)

/-- `beq Rs, (a24), relative target`: R166. -/
def execBeqAbsoluteRel (rs : Reg) (a : Addr) (toff : Word) (s : State) : Host.Outcome State Fault Refusal :=
  finish (branchOnCompare .eq rs (.source (.memory (.absolute a))) (.relative toff) s)

/-- `beq Rs, #off16, relative target`: R166. -/
def execBeqRelativeRel (rs : Reg) (off : Word) (toff : Word) (s : State) : Host.Outcome State Fault Refusal :=
  finish (branchOnCompare .eq rs (.source (.memory (.relative off))) (.relative toff) s)

/-- `beq Rs, @Y, relative target`: R166. -/
def execBeqIndirectYRel (rs : Reg) (toff : Word) (s : State) : Host.Outcome State Fault Refusal :=
  finish (branchOnCompare .eq rs (.source (.memory .indirectY)) (.relative toff) s)

/-- `beq Rs, @Y off16, relative target`: R166. -/
def execBeqIndexedYRel (rs : Reg) (off : Word) (toff : Word) (s : State) : Host.Outcome State Fault Refusal :=
  finish (branchOnCompare .eq rs (.source (.memory (.indexedY off))) (.relative toff) s)

/-- `beq Rs, @Z, relative target`: R166. -/
def execBeqIndirectZRel (rs : Reg) (toff : Word) (s : State) : Host.Outcome State Fault Refusal :=
  finish (branchOnCompare .eq rs (.source (.memory .indirectZ)) (.relative toff) s)

/-- `beq Rs, @Z off16, relative target`: R166. -/
def execBeqIndexedZRel (rs : Reg) (off : Word) (toff : Word) (s : State) : Host.Outcome State Fault Refusal :=
  finish (branchOnCompare .eq rs (.source (.memory (.indexedZ off))) (.relative toff) s)

/-- `beq Rs, Rs2, absolute target`: R166. -/
def execBeqRegisterAbs (rs : Reg) (rs2 : Reg) (t : Addr) (s : State) : Host.Outcome State Fault Refusal :=
  finish (branchOnCompare .eq rs (.register rs2) (.absolute t) s)

/-- `beq Rs, immediate, absolute target`: R166. -/
def execBeqImmediateAbs (rs : Reg) (v : Word) (t : Addr) (s : State) : Host.Outcome State Fault Refusal :=
  finish (branchOnCompare .eq rs (.source (.immediate v)) (.absolute t) s)

/-- `beq Rs, (a16), absolute target`: R166. -/
def execBeqDirectAbs (rs : Reg) (a : Word) (t : Addr) (s : State) : Host.Outcome State Fault Refusal :=
  finish (branchOnCompare .eq rs (.source (.memory (.direct a))) (.absolute t) s)

/-- `beq Rs, (a24), absolute target`: R166. -/
def execBeqAbsoluteAbs (rs : Reg) (a : Addr) (t : Addr) (s : State) : Host.Outcome State Fault Refusal :=
  finish (branchOnCompare .eq rs (.source (.memory (.absolute a))) (.absolute t) s)

/-- `beq Rs, #off16, absolute target`: R166. -/
def execBeqRelativeAbs (rs : Reg) (off : Word) (t : Addr) (s : State) : Host.Outcome State Fault Refusal :=
  finish (branchOnCompare .eq rs (.source (.memory (.relative off))) (.absolute t) s)

/-- `beq Rs, @Y, absolute target`: R166. -/
def execBeqIndirectYAbs (rs : Reg) (t : Addr) (s : State) : Host.Outcome State Fault Refusal :=
  finish (branchOnCompare .eq rs (.source (.memory .indirectY)) (.absolute t) s)

/-- `beq Rs, @Y off16, absolute target`: R166. -/
def execBeqIndexedYAbs (rs : Reg) (off : Word) (t : Addr) (s : State) : Host.Outcome State Fault Refusal :=
  finish (branchOnCompare .eq rs (.source (.memory (.indexedY off))) (.absolute t) s)

/-- `beq Rs, @Z, absolute target`: R166. -/
def execBeqIndirectZAbs (rs : Reg) (t : Addr) (s : State) : Host.Outcome State Fault Refusal :=
  finish (branchOnCompare .eq rs (.source (.memory .indirectZ)) (.absolute t) s)

/-- `beq Rs, @Z off16, absolute target`: R166. -/
def execBeqIndexedZAbs (rs : Reg) (off : Word) (t : Addr) (s : State) : Host.Outcome State Fault Refusal :=
  finish (branchOnCompare .eq rs (.source (.memory (.indexedZ off))) (.absolute t) s)

/-- `bneq Rs, Rs2, relative target`: R167. -/
def execBneqRegisterRel (rs : Reg) (rs2 : Reg) (toff : Word) (s : State) : Host.Outcome State Fault Refusal :=
  finish (branchOnCompare .ne rs (.register rs2) (.relative toff) s)

/-- `bneq Rs, immediate, relative target`: R167. -/
def execBneqImmediateRel (rs : Reg) (v : Word) (toff : Word) (s : State) : Host.Outcome State Fault Refusal :=
  finish (branchOnCompare .ne rs (.source (.immediate v)) (.relative toff) s)

/-- `bneq Rs, (a16), relative target`: R167. -/
def execBneqDirectRel (rs : Reg) (a : Word) (toff : Word) (s : State) : Host.Outcome State Fault Refusal :=
  finish (branchOnCompare .ne rs (.source (.memory (.direct a))) (.relative toff) s)

/-- `bneq Rs, (a24), relative target`: R167. -/
def execBneqAbsoluteRel (rs : Reg) (a : Addr) (toff : Word) (s : State) : Host.Outcome State Fault Refusal :=
  finish (branchOnCompare .ne rs (.source (.memory (.absolute a))) (.relative toff) s)

/-- `bneq Rs, #off16, relative target`: R167. -/
def execBneqRelativeRel (rs : Reg) (off : Word) (toff : Word) (s : State) : Host.Outcome State Fault Refusal :=
  finish (branchOnCompare .ne rs (.source (.memory (.relative off))) (.relative toff) s)

/-- `bneq Rs, @Y, relative target`: R167. -/
def execBneqIndirectYRel (rs : Reg) (toff : Word) (s : State) : Host.Outcome State Fault Refusal :=
  finish (branchOnCompare .ne rs (.source (.memory .indirectY)) (.relative toff) s)

/-- `bneq Rs, @Y off16, relative target`: R167. -/
def execBneqIndexedYRel (rs : Reg) (off : Word) (toff : Word) (s : State) : Host.Outcome State Fault Refusal :=
  finish (branchOnCompare .ne rs (.source (.memory (.indexedY off))) (.relative toff) s)

/-- `bneq Rs, @Z, relative target`: R167. -/
def execBneqIndirectZRel (rs : Reg) (toff : Word) (s : State) : Host.Outcome State Fault Refusal :=
  finish (branchOnCompare .ne rs (.source (.memory .indirectZ)) (.relative toff) s)

/-- `bneq Rs, @Z off16, relative target`: R167. -/
def execBneqIndexedZRel (rs : Reg) (off : Word) (toff : Word) (s : State) : Host.Outcome State Fault Refusal :=
  finish (branchOnCompare .ne rs (.source (.memory (.indexedZ off))) (.relative toff) s)

/-- `bneq Rs, Rs2, absolute target`: R167. -/
def execBneqRegisterAbs (rs : Reg) (rs2 : Reg) (t : Addr) (s : State) : Host.Outcome State Fault Refusal :=
  finish (branchOnCompare .ne rs (.register rs2) (.absolute t) s)

/-- `bneq Rs, immediate, absolute target`: R167. -/
def execBneqImmediateAbs (rs : Reg) (v : Word) (t : Addr) (s : State) : Host.Outcome State Fault Refusal :=
  finish (branchOnCompare .ne rs (.source (.immediate v)) (.absolute t) s)

/-- `bneq Rs, (a16), absolute target`: R167. -/
def execBneqDirectAbs (rs : Reg) (a : Word) (t : Addr) (s : State) : Host.Outcome State Fault Refusal :=
  finish (branchOnCompare .ne rs (.source (.memory (.direct a))) (.absolute t) s)

/-- `bneq Rs, (a24), absolute target`: R167. -/
def execBneqAbsoluteAbs (rs : Reg) (a : Addr) (t : Addr) (s : State) : Host.Outcome State Fault Refusal :=
  finish (branchOnCompare .ne rs (.source (.memory (.absolute a))) (.absolute t) s)

/-- `bneq Rs, #off16, absolute target`: R167. -/
def execBneqRelativeAbs (rs : Reg) (off : Word) (t : Addr) (s : State) : Host.Outcome State Fault Refusal :=
  finish (branchOnCompare .ne rs (.source (.memory (.relative off))) (.absolute t) s)

/-- `bneq Rs, @Y, absolute target`: R167. -/
def execBneqIndirectYAbs (rs : Reg) (t : Addr) (s : State) : Host.Outcome State Fault Refusal :=
  finish (branchOnCompare .ne rs (.source (.memory .indirectY)) (.absolute t) s)

/-- `bneq Rs, @Y off16, absolute target`: R167. -/
def execBneqIndexedYAbs (rs : Reg) (off : Word) (t : Addr) (s : State) : Host.Outcome State Fault Refusal :=
  finish (branchOnCompare .ne rs (.source (.memory (.indexedY off))) (.absolute t) s)

/-- `bneq Rs, @Z, absolute target`: R167. -/
def execBneqIndirectZAbs (rs : Reg) (t : Addr) (s : State) : Host.Outcome State Fault Refusal :=
  finish (branchOnCompare .ne rs (.source (.memory .indirectZ)) (.absolute t) s)

/-- `bneq Rs, @Z off16, absolute target`: R167. -/
def execBneqIndexedZAbs (rs : Reg) (off : Word) (t : Addr) (s : State) : Host.Outcome State Fault Refusal :=
  finish (branchOnCompare .ne rs (.source (.memory (.indexedZ off))) (.absolute t) s)

/-- `bgt Rs, Rs2, relative target`: R168. -/
def execBgtRegisterRel (rs : Reg) (rs2 : Reg) (toff : Word) (s : State) : Host.Outcome State Fault Refusal :=
  finish (branchOnCompare .gt rs (.register rs2) (.relative toff) s)

/-- `bgt Rs, immediate, relative target`: R168. -/
def execBgtImmediateRel (rs : Reg) (v : Word) (toff : Word) (s : State) : Host.Outcome State Fault Refusal :=
  finish (branchOnCompare .gt rs (.source (.immediate v)) (.relative toff) s)

/-- `bgt Rs, (a16), relative target`: R168. -/
def execBgtDirectRel (rs : Reg) (a : Word) (toff : Word) (s : State) : Host.Outcome State Fault Refusal :=
  finish (branchOnCompare .gt rs (.source (.memory (.direct a))) (.relative toff) s)

/-- `bgt Rs, (a24), relative target`: R168. -/
def execBgtAbsoluteRel (rs : Reg) (a : Addr) (toff : Word) (s : State) : Host.Outcome State Fault Refusal :=
  finish (branchOnCompare .gt rs (.source (.memory (.absolute a))) (.relative toff) s)

/-- `bgt Rs, #off16, relative target`: R168. -/
def execBgtRelativeRel (rs : Reg) (off : Word) (toff : Word) (s : State) : Host.Outcome State Fault Refusal :=
  finish (branchOnCompare .gt rs (.source (.memory (.relative off))) (.relative toff) s)

/-- `bgt Rs, @Y, relative target`: R168. -/
def execBgtIndirectYRel (rs : Reg) (toff : Word) (s : State) : Host.Outcome State Fault Refusal :=
  finish (branchOnCompare .gt rs (.source (.memory .indirectY)) (.relative toff) s)

/-- `bgt Rs, @Y off16, relative target`: R168. -/
def execBgtIndexedYRel (rs : Reg) (off : Word) (toff : Word) (s : State) : Host.Outcome State Fault Refusal :=
  finish (branchOnCompare .gt rs (.source (.memory (.indexedY off))) (.relative toff) s)

/-- `bgt Rs, @Z, relative target`: R168. -/
def execBgtIndirectZRel (rs : Reg) (toff : Word) (s : State) : Host.Outcome State Fault Refusal :=
  finish (branchOnCompare .gt rs (.source (.memory .indirectZ)) (.relative toff) s)

/-- `bgt Rs, @Z off16, relative target`: R168. -/
def execBgtIndexedZRel (rs : Reg) (off : Word) (toff : Word) (s : State) : Host.Outcome State Fault Refusal :=
  finish (branchOnCompare .gt rs (.source (.memory (.indexedZ off))) (.relative toff) s)

/-- `bgt Rs, Rs2, absolute target`: R168. -/
def execBgtRegisterAbs (rs : Reg) (rs2 : Reg) (t : Addr) (s : State) : Host.Outcome State Fault Refusal :=
  finish (branchOnCompare .gt rs (.register rs2) (.absolute t) s)

/-- `bgt Rs, immediate, absolute target`: R168. -/
def execBgtImmediateAbs (rs : Reg) (v : Word) (t : Addr) (s : State) : Host.Outcome State Fault Refusal :=
  finish (branchOnCompare .gt rs (.source (.immediate v)) (.absolute t) s)

/-- `bgt Rs, (a16), absolute target`: R168. -/
def execBgtDirectAbs (rs : Reg) (a : Word) (t : Addr) (s : State) : Host.Outcome State Fault Refusal :=
  finish (branchOnCompare .gt rs (.source (.memory (.direct a))) (.absolute t) s)

/-- `bgt Rs, (a24), absolute target`: R168. -/
def execBgtAbsoluteAbs (rs : Reg) (a : Addr) (t : Addr) (s : State) : Host.Outcome State Fault Refusal :=
  finish (branchOnCompare .gt rs (.source (.memory (.absolute a))) (.absolute t) s)

/-- `bgt Rs, #off16, absolute target`: R168. -/
def execBgtRelativeAbs (rs : Reg) (off : Word) (t : Addr) (s : State) : Host.Outcome State Fault Refusal :=
  finish (branchOnCompare .gt rs (.source (.memory (.relative off))) (.absolute t) s)

/-- `bgt Rs, @Y, absolute target`: R168. -/
def execBgtIndirectYAbs (rs : Reg) (t : Addr) (s : State) : Host.Outcome State Fault Refusal :=
  finish (branchOnCompare .gt rs (.source (.memory .indirectY)) (.absolute t) s)

/-- `bgt Rs, @Y off16, absolute target`: R168. -/
def execBgtIndexedYAbs (rs : Reg) (off : Word) (t : Addr) (s : State) : Host.Outcome State Fault Refusal :=
  finish (branchOnCompare .gt rs (.source (.memory (.indexedY off))) (.absolute t) s)

/-- `bgt Rs, @Z, absolute target`: R168. -/
def execBgtIndirectZAbs (rs : Reg) (t : Addr) (s : State) : Host.Outcome State Fault Refusal :=
  finish (branchOnCompare .gt rs (.source (.memory .indirectZ)) (.absolute t) s)

/-- `bgt Rs, @Z off16, absolute target`: R168. -/
def execBgtIndexedZAbs (rs : Reg) (off : Word) (t : Addr) (s : State) : Host.Outcome State Fault Refusal :=
  finish (branchOnCompare .gt rs (.source (.memory (.indexedZ off))) (.absolute t) s)

/-- `bge Rs, Rs2, relative target`: R169. -/
def execBgeRegisterRel (rs : Reg) (rs2 : Reg) (toff : Word) (s : State) : Host.Outcome State Fault Refusal :=
  finish (branchOnCompare .ge rs (.register rs2) (.relative toff) s)

/-- `bge Rs, immediate, relative target`: R169. -/
def execBgeImmediateRel (rs : Reg) (v : Word) (toff : Word) (s : State) : Host.Outcome State Fault Refusal :=
  finish (branchOnCompare .ge rs (.source (.immediate v)) (.relative toff) s)

/-- `bge Rs, (a16), relative target`: R169. -/
def execBgeDirectRel (rs : Reg) (a : Word) (toff : Word) (s : State) : Host.Outcome State Fault Refusal :=
  finish (branchOnCompare .ge rs (.source (.memory (.direct a))) (.relative toff) s)

/-- `bge Rs, (a24), relative target`: R169. -/
def execBgeAbsoluteRel (rs : Reg) (a : Addr) (toff : Word) (s : State) : Host.Outcome State Fault Refusal :=
  finish (branchOnCompare .ge rs (.source (.memory (.absolute a))) (.relative toff) s)

/-- `bge Rs, #off16, relative target`: R169. -/
def execBgeRelativeRel (rs : Reg) (off : Word) (toff : Word) (s : State) : Host.Outcome State Fault Refusal :=
  finish (branchOnCompare .ge rs (.source (.memory (.relative off))) (.relative toff) s)

/-- `bge Rs, @Y, relative target`: R169. -/
def execBgeIndirectYRel (rs : Reg) (toff : Word) (s : State) : Host.Outcome State Fault Refusal :=
  finish (branchOnCompare .ge rs (.source (.memory .indirectY)) (.relative toff) s)

/-- `bge Rs, @Y off16, relative target`: R169. -/
def execBgeIndexedYRel (rs : Reg) (off : Word) (toff : Word) (s : State) : Host.Outcome State Fault Refusal :=
  finish (branchOnCompare .ge rs (.source (.memory (.indexedY off))) (.relative toff) s)

/-- `bge Rs, @Z, relative target`: R169. -/
def execBgeIndirectZRel (rs : Reg) (toff : Word) (s : State) : Host.Outcome State Fault Refusal :=
  finish (branchOnCompare .ge rs (.source (.memory .indirectZ)) (.relative toff) s)

/-- `bge Rs, @Z off16, relative target`: R169. -/
def execBgeIndexedZRel (rs : Reg) (off : Word) (toff : Word) (s : State) : Host.Outcome State Fault Refusal :=
  finish (branchOnCompare .ge rs (.source (.memory (.indexedZ off))) (.relative toff) s)

/-- `bge Rs, Rs2, absolute target`: R169. -/
def execBgeRegisterAbs (rs : Reg) (rs2 : Reg) (t : Addr) (s : State) : Host.Outcome State Fault Refusal :=
  finish (branchOnCompare .ge rs (.register rs2) (.absolute t) s)

/-- `bge Rs, immediate, absolute target`: R169. -/
def execBgeImmediateAbs (rs : Reg) (v : Word) (t : Addr) (s : State) : Host.Outcome State Fault Refusal :=
  finish (branchOnCompare .ge rs (.source (.immediate v)) (.absolute t) s)

/-- `bge Rs, (a16), absolute target`: R169. -/
def execBgeDirectAbs (rs : Reg) (a : Word) (t : Addr) (s : State) : Host.Outcome State Fault Refusal :=
  finish (branchOnCompare .ge rs (.source (.memory (.direct a))) (.absolute t) s)

/-- `bge Rs, (a24), absolute target`: R169. -/
def execBgeAbsoluteAbs (rs : Reg) (a : Addr) (t : Addr) (s : State) : Host.Outcome State Fault Refusal :=
  finish (branchOnCompare .ge rs (.source (.memory (.absolute a))) (.absolute t) s)

/-- `bge Rs, #off16, absolute target`: R169. -/
def execBgeRelativeAbs (rs : Reg) (off : Word) (t : Addr) (s : State) : Host.Outcome State Fault Refusal :=
  finish (branchOnCompare .ge rs (.source (.memory (.relative off))) (.absolute t) s)

/-- `bge Rs, @Y, absolute target`: R169. -/
def execBgeIndirectYAbs (rs : Reg) (t : Addr) (s : State) : Host.Outcome State Fault Refusal :=
  finish (branchOnCompare .ge rs (.source (.memory .indirectY)) (.absolute t) s)

/-- `bge Rs, @Y off16, absolute target`: R169. -/
def execBgeIndexedYAbs (rs : Reg) (off : Word) (t : Addr) (s : State) : Host.Outcome State Fault Refusal :=
  finish (branchOnCompare .ge rs (.source (.memory (.indexedY off))) (.absolute t) s)

/-- `bge Rs, @Z, absolute target`: R169. -/
def execBgeIndirectZAbs (rs : Reg) (t : Addr) (s : State) : Host.Outcome State Fault Refusal :=
  finish (branchOnCompare .ge rs (.source (.memory .indirectZ)) (.absolute t) s)

/-- `bge Rs, @Z off16, absolute target`: R169. -/
def execBgeIndexedZAbs (rs : Reg) (off : Word) (t : Addr) (s : State) : Host.Outcome State Fault Refusal :=
  finish (branchOnCompare .ge rs (.source (.memory (.indexedZ off))) (.absolute t) s)

/-- `jmp relative target`: R171. -/
def execJmpRel (off : Word) (s : State) : Host.Outcome State Fault Refusal :=
  finish (jumpTo (.relative off) s)

/-- `jmp absolute target`: R171. -/
def execJmpAbs (t : Addr) (s : State) : Host.Outcome State Fault Refusal :=
  finish (jumpTo (.absolute t) s)

/-- `jms relative target`: R172. -/
def execJmsRel (off : Word) (s : State) : Host.Outcome State Fault Refusal :=
  finish (callTo (.relative off) s)

/-- `jms absolute target`: R172. -/
def execJmsAbs (t : Addr) (s : State) : Host.Outcome State Fault Refusal :=
  finish (callTo (.absolute t) s)

/-- `ret`: R173. -/
def execRet (s : State) : Host.Outcome State Fault Refusal :=
  finish (returnFromCall s)

/-- `reti`: R177. -/
def execReti (s : State) : Host.Outcome State Fault Refusal :=
  finish (State.returnFromInterrupt s)

end Sys2Proof.Machine
end

