-- ==== Sys2Proof/Machine/Data.lean ====
section
/-! DEFINITION. Data transfer: ld, st, mv (spec/40_data_transfer.md R120 to R123). No flag is written. -/

namespace Sys2Proof.Machine

/-- `ld Rd, operand` (40 R120): the address is formed and the word read before Rd is written. -/
def loadInto (rd : Reg) (src : Source) (s : State) : Except Stop State := do
  guardForm (.load rd src)
  let (v, s1) ← s.source src
  .ok ((s1.writeReg rd v).advance (1 + src.words))

/-- `st Rs, address` (40 R121). -/
def storeFrom (rs : Reg) (q : Place) (s : State) : Except Stop State := do
  guardForm (.store rs q)
  let s1 ← s.memWrite (s.ea q) (s.readReg rs)
  .ok (s1.advance (1 + q.words))

/-- `mv Rd, Rs` (40 R122). -/
def moveWord (rd rs : Reg) (s : State) : Except Stop State := do
  guardForm (.move rd rs)
  .ok ((s.writeReg rd (s.readReg rs)).advance 1)

/-- `ld Rd, immediate`: R120. -/
def execLdImmediate (rd : Reg) (v : Word) (s : State) : Host.Outcome State Fault Refusal :=
  finish (loadInto rd (.immediate v) s)

/-- `ld Rd, (a16)`: R120. -/
def execLdDirect (rd : Reg) (a : Word) (s : State) : Host.Outcome State Fault Refusal :=
  finish (loadInto rd (.memory (.direct a)) s)

/-- `ld Rd, (a24)`: R120. -/
def execLdAbsolute (rd : Reg) (a : Addr) (s : State) : Host.Outcome State Fault Refusal :=
  finish (loadInto rd (.memory (.absolute a)) s)

/-- `ld Rd, #off16`: R120. -/
def execLdRelative (rd : Reg) (off : Word) (s : State) : Host.Outcome State Fault Refusal :=
  finish (loadInto rd (.memory (.relative off)) s)

/-- `ld Rd, @Y`: R120. -/
def execLdIndirectY (rd : Reg) (s : State) : Host.Outcome State Fault Refusal :=
  finish (loadInto rd (.memory .indirectY) s)

/-- `ld Rd, @Y off16`: R120. -/
def execLdIndexedY (rd : Reg) (off : Word) (s : State) : Host.Outcome State Fault Refusal :=
  finish (loadInto rd (.memory (.indexedY off)) s)

/-- `ld Rd, @Z`: R120. -/
def execLdIndirectZ (rd : Reg) (s : State) : Host.Outcome State Fault Refusal :=
  finish (loadInto rd (.memory .indirectZ) s)

/-- `ld Rd, @Z off16`: R120. -/
def execLdIndexedZ (rd : Reg) (off : Word) (s : State) : Host.Outcome State Fault Refusal :=
  finish (loadInto rd (.memory (.indexedZ off)) s)

/-- `st Rs, (a16)`: R121. -/
def execStDirect (rs : Reg) (a : Word) (s : State) : Host.Outcome State Fault Refusal :=
  finish (storeFrom rs (.direct a) s)

/-- `st Rs, (a24)`: R121. -/
def execStAbsolute (rs : Reg) (a : Addr) (s : State) : Host.Outcome State Fault Refusal :=
  finish (storeFrom rs (.absolute a) s)

/-- `st Rs, #off16`: R121. -/
def execStRelative (rs : Reg) (off : Word) (s : State) : Host.Outcome State Fault Refusal :=
  finish (storeFrom rs (.relative off) s)

/-- `st Rs, @Y`: R121. -/
def execStIndirectY (rs : Reg) (s : State) : Host.Outcome State Fault Refusal :=
  finish (storeFrom rs .indirectY s)

/-- `st Rs, @Y off16`: R121. -/
def execStIndexedY (rs : Reg) (off : Word) (s : State) : Host.Outcome State Fault Refusal :=
  finish (storeFrom rs (.indexedY off) s)

/-- `st Rs, @Z`: R121. -/
def execStIndirectZ (rs : Reg) (s : State) : Host.Outcome State Fault Refusal :=
  finish (storeFrom rs .indirectZ s)

/-- `st Rs, @Z off16`: R121. -/
def execStIndexedZ (rs : Reg) (off : Word) (s : State) : Host.Outcome State Fault Refusal :=
  finish (storeFrom rs (.indexedZ off) s)

/-- `mv Rd, Rs`: R122. -/
def execMv (rd : Reg) (rs : Reg) (s : State) : Host.Outcome State Fault Refusal :=
  finish (moveWord rd rs s)

end Sys2Proof.Machine
end

