-- ==== Sys2Proof/Machine/Other.lean ====
section
/-! DEFINITION. push, pop, sb, rb, hlt, nop (spec/43_other.md R190 to R197). -/

namespace Sys2Proof.Machine

/-- `push Rs` (43 R190). -/
def pushFrom (rs : Reg) (s : State) : Except Stop State := do
  guardForm (.push rs)
  let s1 ← s.push (s.readReg rs)
  .ok (s1.advance 1)

/-- `pop Rd` (43 R191). -/
def popInto (rd : Reg) (s : State) : Except Stop State := do
  guardForm (.pop rd)
  let (v, s1) ← s.pop
  .ok ((s1.writeReg rd v).advance 1)

/-- `sb Rd, f` (43 R193): no flag but the one addressed, when Rd is R13. -/
def setBitIn (rd : Reg) (f : BitIndex) (s : State) : Except Stop State := do
  guardForm (.setBit rd f)
  .ok ((s.writeReg rd (s.readReg rd ||| bitMask (bitPos s.params.bitSelect f))).advance 1)

/-- `rb Rd, f` (43 R194). -/
def resetBitIn (rd : Reg) (f : BitIndex) (s : State) : Except Stop State := do
  guardForm (.resetBit rd f)
  .ok ((s.writeReg rd (s.readReg rd &&& ~~~ bitMask (bitPos s.params.bitSelect f))).advance 1)

/-- `hlt` (43 R195). -/
def haltHere (s : State) : Except Stop State := .ok { s.advance 1 with halted := true }

/-- `nop` (43 R196). -/
def doNothing (s : State) : Except Stop State := .ok (s.advance 1)

/-- `push Rs`: R190. -/
def execPush (rs : Reg) (s : State) : Host.Outcome State Fault Refusal :=
  finish (pushFrom rs s)

/-- `pop Rd`: R191. -/
def execPop (rd : Reg) (s : State) : Host.Outcome State Fault Refusal :=
  finish (popInto rd s)

/-- `sb Rd, f`: R193. -/
def execSb (rd : Reg) (f : BitIndex) (s : State) : Host.Outcome State Fault Refusal :=
  finish (setBitIn rd f s)

/-- `rb Rd, f`: R194. -/
def execRb (rd : Reg) (f : BitIndex) (s : State) : Host.Outcome State Fault Refusal :=
  finish (resetBitIn rd f s)

/-- `hlt`: R195. -/
def execHlt (s : State) : Host.Outcome State Fault Refusal :=
  finish (haltHere s)

/-- `nop`: R196. -/
def execNop (s : State) : Host.Outcome State Fault Refusal :=
  finish (doNothing s)

end Sys2Proof.Machine
end

