-- ==== Sys2Proof/Machine/Dispatch.lean ====
section
/-! DEFINITION. What each instruction does: one arm per constructor of `Instr`, one direct call of its meaning. -/

namespace Sys2Proof.Machine

def exec (i : Instr) (s : State) : Host.Outcome State Fault Refusal :=
  match i with
  | .ldImmediate rd v => Sys2Proof.Machine.execLdImmediate rd v s
  | .ldDirect rd a => Sys2Proof.Machine.execLdDirect rd a s
  | .ldAbsolute rd a => Sys2Proof.Machine.execLdAbsolute rd a s
  | .ldRelative rd off => Sys2Proof.Machine.execLdRelative rd off s
  | .ldIndirectY rd => Sys2Proof.Machine.execLdIndirectY rd s
  | .ldIndexedY rd off => Sys2Proof.Machine.execLdIndexedY rd off s
  | .ldIndirectZ rd => Sys2Proof.Machine.execLdIndirectZ rd s
  | .ldIndexedZ rd off => Sys2Proof.Machine.execLdIndexedZ rd off s
  | .stDirect rs a => Sys2Proof.Machine.execStDirect rs a s
  | .stAbsolute rs a => Sys2Proof.Machine.execStAbsolute rs a s
  | .stRelative rs off => Sys2Proof.Machine.execStRelative rs off s
  | .stIndirectY rs => Sys2Proof.Machine.execStIndirectY rs s
  | .stIndexedY rs off => Sys2Proof.Machine.execStIndexedY rs off s
  | .stIndirectZ rs => Sys2Proof.Machine.execStIndirectZ rs s
  | .stIndexedZ rs off => Sys2Proof.Machine.execStIndexedZ rs off s
  | .mv rd rs => Sys2Proof.Machine.execMv rd rs s
  | .addRegister rd rs => Sys2Proof.Machine.execAddRegister rd rs s
  | .addImmediate rd v => Sys2Proof.Machine.execAddImmediate rd v s
  | .addDirect rd a => Sys2Proof.Machine.execAddDirect rd a s
  | .addAbsolute rd a => Sys2Proof.Machine.execAddAbsolute rd a s
  | .addRelative rd off => Sys2Proof.Machine.execAddRelative rd off s
  | .addIndirectY rd => Sys2Proof.Machine.execAddIndirectY rd s
  | .addIndexedY rd off => Sys2Proof.Machine.execAddIndexedY rd off s
  | .addIndirectZ rd => Sys2Proof.Machine.execAddIndirectZ rd s
  | .addIndexedZ rd off => Sys2Proof.Machine.execAddIndexedZ rd off s
  | .subRegister rd rs => Sys2Proof.Machine.execSubRegister rd rs s
  | .subImmediate rd v => Sys2Proof.Machine.execSubImmediate rd v s
  | .subDirect rd a => Sys2Proof.Machine.execSubDirect rd a s
  | .subAbsolute rd a => Sys2Proof.Machine.execSubAbsolute rd a s
  | .subRelative rd off => Sys2Proof.Machine.execSubRelative rd off s
  | .subIndirectY rd => Sys2Proof.Machine.execSubIndirectY rd s
  | .subIndexedY rd off => Sys2Proof.Machine.execSubIndexedY rd off s
  | .subIndirectZ rd => Sys2Proof.Machine.execSubIndirectZ rd s
  | .subIndexedZ rd off => Sys2Proof.Machine.execSubIndexedZ rd off s
  | .andRegister rd rs => Sys2Proof.Machine.execAndRegister rd rs s
  | .andImmediate rd v => Sys2Proof.Machine.execAndImmediate rd v s
  | .andDirect rd a => Sys2Proof.Machine.execAndDirect rd a s
  | .andAbsolute rd a => Sys2Proof.Machine.execAndAbsolute rd a s
  | .andRelative rd off => Sys2Proof.Machine.execAndRelative rd off s
  | .andIndirectY rd => Sys2Proof.Machine.execAndIndirectY rd s
  | .andIndexedY rd off => Sys2Proof.Machine.execAndIndexedY rd off s
  | .andIndirectZ rd => Sys2Proof.Machine.execAndIndirectZ rd s
  | .andIndexedZ rd off => Sys2Proof.Machine.execAndIndexedZ rd off s
  | .orRegister rd rs => Sys2Proof.Machine.execOrRegister rd rs s
  | .orImmediate rd v => Sys2Proof.Machine.execOrImmediate rd v s
  | .orDirect rd a => Sys2Proof.Machine.execOrDirect rd a s
  | .orAbsolute rd a => Sys2Proof.Machine.execOrAbsolute rd a s
  | .orRelative rd off => Sys2Proof.Machine.execOrRelative rd off s
  | .orIndirectY rd => Sys2Proof.Machine.execOrIndirectY rd s
  | .orIndexedY rd off => Sys2Proof.Machine.execOrIndexedY rd off s
  | .orIndirectZ rd => Sys2Proof.Machine.execOrIndirectZ rd s
  | .orIndexedZ rd off => Sys2Proof.Machine.execOrIndexedZ rd off s
  | .xorRegister rd rs => Sys2Proof.Machine.execXorRegister rd rs s
  | .xorImmediate rd v => Sys2Proof.Machine.execXorImmediate rd v s
  | .xorDirect rd a => Sys2Proof.Machine.execXorDirect rd a s
  | .xorAbsolute rd a => Sys2Proof.Machine.execXorAbsolute rd a s
  | .xorRelative rd off => Sys2Proof.Machine.execXorRelative rd off s
  | .xorIndirectY rd => Sys2Proof.Machine.execXorIndirectY rd s
  | .xorIndexedY rd off => Sys2Proof.Machine.execXorIndexedY rd off s
  | .xorIndirectZ rd => Sys2Proof.Machine.execXorIndirectZ rd s
  | .xorIndexedZ rd off => Sys2Proof.Machine.execXorIndexedZ rd off s
  | .inc rd => Sys2Proof.Machine.execInc rd s
  | .dec rd => Sys2Proof.Machine.execDec rd s
  | .not rd => Sys2Proof.Machine.execNot rd s
  | .lsl rd => Sys2Proof.Machine.execLsl rd s
  | .lsr rd => Sys2Proof.Machine.execLsr rd s
  | .lrl rd => Sys2Proof.Machine.execLrl rd s
  | .lrr rd => Sys2Proof.Machine.execLrr rd s
  | .lsb rd => Sys2Proof.Machine.execLsb rd s
  | .bbRel rs f off => Sys2Proof.Machine.execBbRel rs f off s
  | .bbAbs rs f t => Sys2Proof.Machine.execBbAbs rs f t s
  | .bnbRel rs f off => Sys2Proof.Machine.execBnbRel rs f off s
  | .bnbAbs rs f t => Sys2Proof.Machine.execBnbAbs rs f t s
  | .bzRel rd off => Sys2Proof.Machine.execBzRel rd off s
  | .bzAbs rd t => Sys2Proof.Machine.execBzAbs rd t s
  | .bnzRel rd off => Sys2Proof.Machine.execBnzRel rd off s
  | .bnzAbs rd t => Sys2Proof.Machine.execBnzAbs rd t s
  | .beqRegisterRel rs rs2 toff => Sys2Proof.Machine.execBeqRegisterRel rs rs2 toff s
  | .beqImmediateRel rs v toff => Sys2Proof.Machine.execBeqImmediateRel rs v toff s
  | .beqDirectRel rs a toff => Sys2Proof.Machine.execBeqDirectRel rs a toff s
  | .beqAbsoluteRel rs a toff => Sys2Proof.Machine.execBeqAbsoluteRel rs a toff s
  | .beqRelativeRel rs off toff => Sys2Proof.Machine.execBeqRelativeRel rs off toff s
  | .beqIndirectYRel rs toff => Sys2Proof.Machine.execBeqIndirectYRel rs toff s
  | .beqIndexedYRel rs off toff => Sys2Proof.Machine.execBeqIndexedYRel rs off toff s
  | .beqIndirectZRel rs toff => Sys2Proof.Machine.execBeqIndirectZRel rs toff s
  | .beqIndexedZRel rs off toff => Sys2Proof.Machine.execBeqIndexedZRel rs off toff s
  | .beqRegisterAbs rs rs2 t => Sys2Proof.Machine.execBeqRegisterAbs rs rs2 t s
  | .beqImmediateAbs rs v t => Sys2Proof.Machine.execBeqImmediateAbs rs v t s
  | .beqDirectAbs rs a t => Sys2Proof.Machine.execBeqDirectAbs rs a t s
  | .beqAbsoluteAbs rs a t => Sys2Proof.Machine.execBeqAbsoluteAbs rs a t s
  | .beqRelativeAbs rs off t => Sys2Proof.Machine.execBeqRelativeAbs rs off t s
  | .beqIndirectYAbs rs t => Sys2Proof.Machine.execBeqIndirectYAbs rs t s
  | .beqIndexedYAbs rs off t => Sys2Proof.Machine.execBeqIndexedYAbs rs off t s
  | .beqIndirectZAbs rs t => Sys2Proof.Machine.execBeqIndirectZAbs rs t s
  | .beqIndexedZAbs rs off t => Sys2Proof.Machine.execBeqIndexedZAbs rs off t s
  | .bneqRegisterRel rs rs2 toff => Sys2Proof.Machine.execBneqRegisterRel rs rs2 toff s
  | .bneqImmediateRel rs v toff => Sys2Proof.Machine.execBneqImmediateRel rs v toff s
  | .bneqDirectRel rs a toff => Sys2Proof.Machine.execBneqDirectRel rs a toff s
  | .bneqAbsoluteRel rs a toff => Sys2Proof.Machine.execBneqAbsoluteRel rs a toff s
  | .bneqRelativeRel rs off toff => Sys2Proof.Machine.execBneqRelativeRel rs off toff s
  | .bneqIndirectYRel rs toff => Sys2Proof.Machine.execBneqIndirectYRel rs toff s
  | .bneqIndexedYRel rs off toff => Sys2Proof.Machine.execBneqIndexedYRel rs off toff s
  | .bneqIndirectZRel rs toff => Sys2Proof.Machine.execBneqIndirectZRel rs toff s
  | .bneqIndexedZRel rs off toff => Sys2Proof.Machine.execBneqIndexedZRel rs off toff s
  | .bneqRegisterAbs rs rs2 t => Sys2Proof.Machine.execBneqRegisterAbs rs rs2 t s
  | .bneqImmediateAbs rs v t => Sys2Proof.Machine.execBneqImmediateAbs rs v t s
  | .bneqDirectAbs rs a t => Sys2Proof.Machine.execBneqDirectAbs rs a t s
  | .bneqAbsoluteAbs rs a t => Sys2Proof.Machine.execBneqAbsoluteAbs rs a t s
  | .bneqRelativeAbs rs off t => Sys2Proof.Machine.execBneqRelativeAbs rs off t s
  | .bneqIndirectYAbs rs t => Sys2Proof.Machine.execBneqIndirectYAbs rs t s
  | .bneqIndexedYAbs rs off t => Sys2Proof.Machine.execBneqIndexedYAbs rs off t s
  | .bneqIndirectZAbs rs t => Sys2Proof.Machine.execBneqIndirectZAbs rs t s
  | .bneqIndexedZAbs rs off t => Sys2Proof.Machine.execBneqIndexedZAbs rs off t s
  | .bgtRegisterRel rs rs2 toff => Sys2Proof.Machine.execBgtRegisterRel rs rs2 toff s
  | .bgtImmediateRel rs v toff => Sys2Proof.Machine.execBgtImmediateRel rs v toff s
  | .bgtDirectRel rs a toff => Sys2Proof.Machine.execBgtDirectRel rs a toff s
  | .bgtAbsoluteRel rs a toff => Sys2Proof.Machine.execBgtAbsoluteRel rs a toff s
  | .bgtRelativeRel rs off toff => Sys2Proof.Machine.execBgtRelativeRel rs off toff s
  | .bgtIndirectYRel rs toff => Sys2Proof.Machine.execBgtIndirectYRel rs toff s
  | .bgtIndexedYRel rs off toff => Sys2Proof.Machine.execBgtIndexedYRel rs off toff s
  | .bgtIndirectZRel rs toff => Sys2Proof.Machine.execBgtIndirectZRel rs toff s
  | .bgtIndexedZRel rs off toff => Sys2Proof.Machine.execBgtIndexedZRel rs off toff s
  | .bgtRegisterAbs rs rs2 t => Sys2Proof.Machine.execBgtRegisterAbs rs rs2 t s
  | .bgtImmediateAbs rs v t => Sys2Proof.Machine.execBgtImmediateAbs rs v t s
  | .bgtDirectAbs rs a t => Sys2Proof.Machine.execBgtDirectAbs rs a t s
  | .bgtAbsoluteAbs rs a t => Sys2Proof.Machine.execBgtAbsoluteAbs rs a t s
  | .bgtRelativeAbs rs off t => Sys2Proof.Machine.execBgtRelativeAbs rs off t s
  | .bgtIndirectYAbs rs t => Sys2Proof.Machine.execBgtIndirectYAbs rs t s
  | .bgtIndexedYAbs rs off t => Sys2Proof.Machine.execBgtIndexedYAbs rs off t s
  | .bgtIndirectZAbs rs t => Sys2Proof.Machine.execBgtIndirectZAbs rs t s
  | .bgtIndexedZAbs rs off t => Sys2Proof.Machine.execBgtIndexedZAbs rs off t s
  | .bgeRegisterRel rs rs2 toff => Sys2Proof.Machine.execBgeRegisterRel rs rs2 toff s
  | .bgeImmediateRel rs v toff => Sys2Proof.Machine.execBgeImmediateRel rs v toff s
  | .bgeDirectRel rs a toff => Sys2Proof.Machine.execBgeDirectRel rs a toff s
  | .bgeAbsoluteRel rs a toff => Sys2Proof.Machine.execBgeAbsoluteRel rs a toff s
  | .bgeRelativeRel rs off toff => Sys2Proof.Machine.execBgeRelativeRel rs off toff s
  | .bgeIndirectYRel rs toff => Sys2Proof.Machine.execBgeIndirectYRel rs toff s
  | .bgeIndexedYRel rs off toff => Sys2Proof.Machine.execBgeIndexedYRel rs off toff s
  | .bgeIndirectZRel rs toff => Sys2Proof.Machine.execBgeIndirectZRel rs toff s
  | .bgeIndexedZRel rs off toff => Sys2Proof.Machine.execBgeIndexedZRel rs off toff s
  | .bgeRegisterAbs rs rs2 t => Sys2Proof.Machine.execBgeRegisterAbs rs rs2 t s
  | .bgeImmediateAbs rs v t => Sys2Proof.Machine.execBgeImmediateAbs rs v t s
  | .bgeDirectAbs rs a t => Sys2Proof.Machine.execBgeDirectAbs rs a t s
  | .bgeAbsoluteAbs rs a t => Sys2Proof.Machine.execBgeAbsoluteAbs rs a t s
  | .bgeRelativeAbs rs off t => Sys2Proof.Machine.execBgeRelativeAbs rs off t s
  | .bgeIndirectYAbs rs t => Sys2Proof.Machine.execBgeIndirectYAbs rs t s
  | .bgeIndexedYAbs rs off t => Sys2Proof.Machine.execBgeIndexedYAbs rs off t s
  | .bgeIndirectZAbs rs t => Sys2Proof.Machine.execBgeIndirectZAbs rs t s
  | .bgeIndexedZAbs rs off t => Sys2Proof.Machine.execBgeIndexedZAbs rs off t s
  | .jmpRel off => Sys2Proof.Machine.execJmpRel off s
  | .jmpAbs t => Sys2Proof.Machine.execJmpAbs t s
  | .jmsRel off => Sys2Proof.Machine.execJmsRel off s
  | .jmsAbs t => Sys2Proof.Machine.execJmsAbs t s
  | .ret => Sys2Proof.Machine.execRet s
  | .reti => Sys2Proof.Machine.execReti s
  | .push rs => Sys2Proof.Machine.execPush rs s
  | .pop rd => Sys2Proof.Machine.execPop rd s
  | .sb rd f => Sys2Proof.Machine.execSb rd f s
  | .rb rd f => Sys2Proof.Machine.execRb rd f s
  | .hlt => Sys2Proof.Machine.execHlt s
  | .nop => Sys2Proof.Machine.execNop s

end Sys2Proof.Machine
end

