-- ==== Sys2Proof/Decode.lean ====
section
/-! DEFINITION. The decoder (spec/30_encoding.md R99), total on any words and rejecting by name, and the encoder, both
written from the opcode map of R100 and the formats of R101 to R103. -/

namespace Sys2Proof

open Sys2Proof.Machine

/-- The seven mode codes that name a place in memory (30 R87). -/
inductive PlaceMode
  | direct | absolute | relative | indirectY | indexedY | indirectZ | indexedZ
  deriving DecidableEq, Repr

/-- The eight assigned mode codes (30 R96). -/
inductive Mode
  | immediate
  | place (m : PlaceMode)
  deriving DecidableEq, Repr

/-- The BRT bit: relative or absolute target (30 R82, R97). -/
inductive Jump
  | relative | absolute
  deriving DecidableEq, Repr

/-- The eleven formats of 30 R101 to R103, each with the operation its upper byte names. -/
inductive Layout
  /-- `RR`: mv. -/
  | rrMove
  /-- `RR`: the register form of a two-operand operation. -/
  | rr (op : AluOp)
  /-- `RM`: ld. -/
  | rmLoad
  /-- `RM`: st. -/
  | rmStore
  /-- `RM`: the address-mode form of a two-operand operation. -/
  | rm (op : AluOp)
  /-- `R1`: a one-register operation. -/
  | r1 (op : UnaryOp)
  /-- `R1`: push. -/
  | r1Push
  /-- `R1`: pop. -/
  | r1Pop
  /-- `RB`: sb. -/
  | rbSet
  /-- `RB`: rb. -/
  | rbReset
  /-- `B-RB`: bb, bnb. -/
  | bRB (b : BitTest) (j : Jump)
  /-- `B-R1`: bz, bnz. -/
  | bR1 (b : CountTest) (j : Jump)
  /-- `B-RR`: a register-mode compare. -/
  | bRR (c : Cmp) (j : Jump)
  /-- `B-RM`: an address-mode compare. -/
  | bRM (c : Cmp) (j : Jump)
  /-- `B-0`: jmp. -/
  | b0Jump (j : Jump)
  /-- `B-0`: jms. -/
  | b0Call (j : Jump)
  /-- `N0`: ret. -/
  | n0Ret
  /-- `N0`: reti. -/
  | n0Reti
  /-- `W`: hlt. -/
  | wHalt
  /-- `W`: nop. -/
  | wNop
  deriving DecidableEq, Repr

/-- The opcode map of 30 R100: the 57 defined values of the upper byte. -/
def opcodeMap : List (Byte × Layout) :=
  [ (0x03, .rmLoad), (0x05, .rmStore), (0x06, .rrMove),
    (0x40, .rr .add), (0x41, .rm .add), (0x44, .r1 .inc),
    (0x48, .rr .sub), (0x49, .rm .sub), (0x4C, .r1 .dec),
    (0x50, .rr .and), (0x51, .rm .and), (0x52, .rr .or), (0x53, .rm .or),
    (0x54, .rr .xor), (0x55, .rm .xor), (0x56, .r1 .not),
    (0x58, .r1 .lsl), (0x5A, .r1 .lsr), (0x5C, .r1 .lrl), (0x5E, .r1 .lrr), (0x60, .r1 .lsb),
    (0x88, .bRB .set .relative), (0x8A, .bRB .set .absolute),
    (0x8C, .bRB .clear .relative), (0x8E, .bRB .clear .absolute),
    (0x90, .bR1 .zero .relative), (0x92, .bR1 .zero .absolute),
    (0x94, .bR1 .nonzero .relative), (0x96, .bR1 .nonzero .absolute),
    (0x98, .bRR .eq .relative), (0x99, .bRM .eq .relative),
    (0x9A, .bRR .eq .absolute), (0x9B, .bRM .eq .absolute),
    (0x9C, .bRR .ne .relative), (0x9D, .bRM .ne .relative),
    (0x9E, .bRR .ne .absolute), (0x9F, .bRM .ne .absolute),
    (0xA0, .bRR .gt .relative), (0xA1, .bRM .gt .relative),
    (0xA2, .bRR .gt .absolute), (0xA3, .bRM .gt .absolute),
    (0xA4, .bRR .ge .relative), (0xA5, .bRM .ge .relative),
    (0xA6, .bRR .ge .absolute), (0xA7, .bRM .ge .absolute),
    (0xA8, .b0Jump .relative), (0xAA, .b0Jump .absolute),
    (0xAC, .b0Call .relative), (0xAE, .b0Call .absolute),
    (0xB0, .n0Ret), (0xB4, .n0Reti),
    (0xC0, .r1Push), (0xC2, .r1Pop), (0xC4, .rbSet), (0xC6, .rbReset),
    (0xFE, .wHalt), (0xFF, .wNop) ]

/-- The mode codes of 30 R96; the other eight are unassigned (30 R106). Indexed (Y) is 0110 (30 R88). -/
def modeMap : List (BitVec 4 × Mode) :=
  [ (0b0001, .immediate), (0b0010, .place .direct), (0b0011, .place .absolute), (0b0100, .place .relative),
    (0b0101, .place .indirectY), (0b0110, .place .indexedY),
    (0b1101, .place .indirectZ), (0b1110, .place .indexedZ) ]

/-- The upper byte `w[15:8]` (30 R81). -/
def upperByte (w : Word) : Byte := w.extractLsb' 8 8

/-- The control code's bits 7:4 (30 R84). -/
def highNibble (w : Word) : BitVec 4 := w.extractLsb' 4 4

/-- The control code's bits 3:0, the register field of every format that has one (30 R84, R85). -/
def lowNibble (w : Word) : BitVec 4 := w.extractLsb' 0 4

/-- A 4-bit field as a register number or bit index (30 R85, R86). -/
def fieldNumber (v : BitVec 4) : Fin 16 := v.toFin

/-- What the first word fixes: everything but the values of the extension words (30 R80, R98). -/
inductive Head
  | whole (f : Form)
  | load (rd : Reg) (m : Mode)
  | store (rs : Reg) (m : PlaceMode)
  | alu (op : AluOp) (rd : Reg) (m : Mode)
  | bitBranch (b : BitTest) (rs : Reg) (f : BitIndex) (j : Jump)
  | countBranch (b : CountTest) (rd : Reg) (j : Jump)
  | compareReg (c : Cmp) (rs rs2 : Reg) (j : Jump)
  | compareMode (c : Cmp) (rs : Reg) (m : Mode) (j : Jump)
  | jump (j : Jump)
  | call (j : Jump)
  deriving DecidableEq, Repr

/-- The mode field of a form that has one (30 R106). -/
def modeField (w : Word) : Except DecodeError Mode :=
  match modeMap.lookup (highNibble w) with
  | some m => .ok m
  | none => .error .reservedMode

/-- `h` when the field that must be zero is, or when STRICT_DECODE is off (30 R107). -/
def whenZero {n : Nat} (p : Params) (v : BitVec n) (h : Head) : Except DecodeError Head :=
  if p.strictDecode && v != 0 then .error .mustBeZero else .ok h

/-- `h` when the control code of a whole-word form is 0xFF, or when STRICT_DECODE is off (30 R103, R107). -/
def whenOnes (p : Params) (w : Word) (h : Head) : Except DecodeError Head :=
  if p.strictDecode && w.extractLsb' 0 8 != 0xFF#8 then .error .mustBeZero else .ok h

/-- Steps 2 and 3 of 30 R99: the upper byte and the control code. -/
def decodeHead (p : Params) (w : Word) : Except DecodeError Head :=
  let hi := highNibble w
  let rd := fieldNumber (lowNibble w)
  match opcodeMap.lookup (upperByte w) with
  | none => .error .undefinedOpcode
  | some .rrMove => .ok (.whole (.move rd (fieldNumber hi)))
  | some (.rr op) => .ok (.whole (.alu op rd (.register (fieldNumber hi))))
  | some .rmLoad => (modeField w).map (.load rd)
  | some .rmStore =>
    match modeField w with
    | .ok (.place m) => .ok (.store rd m)
    | .ok .immediate => .error .reservedMode
    | .error e => .error e
  | some (.rm op) => (modeField w).map (.alu op rd)
  | some (.r1 op) => whenZero p hi (.whole (.unary op rd))
  | some .r1Push => whenZero p hi (.whole (.push rd))
  | some .r1Pop => whenZero p hi (.whole (.pop rd))
  | some .rbSet => .ok (.whole (.setBit rd (fieldNumber hi)))
  | some .rbReset => .ok (.whole (.resetBit rd (fieldNumber hi)))
  | some (.bRB b j) => .ok (.bitBranch b rd (fieldNumber hi) j)
  | some (.bR1 b j) => whenZero p hi (.countBranch b rd j)
  | some (.bRR c j) => .ok (.compareReg c rd (fieldNumber hi) j)
  | some (.bRM c j) => (modeField w).map (.compareMode c rd · j)
  | some (.b0Jump j) => whenZero p (w.extractLsb' 0 8) (.jump j)
  | some (.b0Call j) => whenZero p (w.extractLsb' 0 8) (.call j)
  | some .n0Ret => whenZero p (w.extractLsb' 0 8) (.whole .ret)
  | some .n0Reti => whenZero p (w.extractLsb' 0 8) (.whole .reti)
  | some .wHalt => whenOnes p w (.whole .halt)
  | some .wNop => whenOnes p w (.whole .nop)

/-- `n` of 30 R96 for a place mode. -/
def PlaceMode.words : PlaceMode → Nat
  | .direct => 1
  | .absolute => 2
  | .relative => 1
  | .indirectY => 0
  | .indexedY => 1
  | .indirectZ => 0
  | .indexedZ => 1

/-- `n` of 30 R96. -/
def Mode.words : Mode → Nat
  | .immediate => 1
  | .place m => m.words

/-- `t` of 30 R98. -/
def Jump.words : Jump → Nat
  | .relative => 1
  | .absolute => 2

/-- `L - 1`: the extension words that the first word asks for (30 R98). -/
def Head.extWords : Head → Nat
  | .whole _ => 0
  | .load _ m => m.words
  | .store _ m => m.words
  | .alu _ _ m => m.words
  | .bitBranch _ _ _ j => j.words
  | .countBranch _ _ j => j.words
  | .compareReg _ _ _ j => j.words
  | .compareMode _ _ m j => m.words + j.words
  | .jump j => j.words
  | .call j => j.words

/-- One word from the front of the extension words. -/
def takeWord : List Word → Except DecodeError (Word × List Word)
  | [] => .error .tooShort
  | e :: es => .ok (e, es)

/-- A two-word address from the front of the extension words; its unused byte must be zero under STRICT_DECODE
(30 R92, R108). -/
def takeAddr (p : Params) : List Word → Except DecodeError (Addr × List Word)
  | e0 :: e1 :: es =>
    if p.strictDecode && pairJunk p.instrOrder e0 e1 != 0 then .error .addressJunk
    else .ok (pairAddr p.instrOrder e0 e1, es)
  | _ => .error .tooShort

/-- The place a mode names, with its extension words (30 R91 to R95). -/
def takePlace (p : Params) (m : PlaceMode) (es : List Word) : Except DecodeError (Place × List Word) :=
  match m with
  | .direct => (takeWord es).map fun (a, r) => (.direct a, r)
  | .absolute => (takeAddr p es).map fun (a, r) => (.absolute a, r)
  | .relative => (takeWord es).map fun (o, r) => (.relative o, r)
  | .indirectY => .ok (.indirectY, es)
  | .indexedY => (takeWord es).map fun (o, r) => (.indexedY o, r)
  | .indirectZ => .ok (.indirectZ, es)
  | .indexedZ => (takeWord es).map fun (o, r) => (.indexedZ o, r)

/-- The operand a mode names, with its extension words (30 R89, R90). -/
def takeSource (p : Params) (m : Mode) (es : List Word) : Except DecodeError (Source × List Word) :=
  match m with
  | .immediate => (takeWord es).map fun (v, r) => (.immediate v, r)
  | .place m => (takePlace p m es).map fun (q, r) => (.memory q, r)

/-- The jump target, with its extension words (30 R97). -/
def takeTarget (p : Params) (j : Jump) (es : List Word) : Except DecodeError (Target × List Word) :=
  match j with
  | .relative => (takeWord es).map fun (o, r) => (.relative o, r)
  | .absolute => (takeAddr p es).map fun (a, r) => (.absolute a, r)

/-- The operand and the target of an address-mode compare, in the order EXT_ORDER gives (30 R104). -/
def takeSourceAndTarget (p : Params) (m : Mode) (j : Jump) (es : List Word) :
    Except DecodeError ((Source × Target) × List Word) :=
  match p.extOrder with
  | .operandFirst => do
    let (o, es1) ← takeSource p m es
    let (t, es2) ← takeTarget p j es1
    .ok ((o, t), es2)
  | .targetFirst => do
    let (t, es1) ← takeTarget p j es
    let (o, es2) ← takeSource p m es1
    .ok ((o, t), es2)

/-- Step 4 of 30 R99: the instruction, from what the first word fixes and the extension words; the words left over
follow it. -/
def Head.complete (p : Params) (h : Head) (es : List Word) : Except DecodeError (Form × List Word) :=
  match h with
  | .whole f => .ok (f, es)
  | .load rd m => (takeSource p m es).map fun (o, r) => (.load rd o, r)
  | .store rs m => (takePlace p m es).map fun (q, r) => (.store rs q, r)
  | .alu op rd m => (takeSource p m es).map fun (o, r) => (.alu op rd (.source o), r)
  | .bitBranch b rs f j => (takeTarget p j es).map fun (t, r) => (.bitBranch b rs f t, r)
  | .countBranch b rd j => (takeTarget p j es).map fun (t, r) => (.countBranch b rd t, r)
  | .compareReg c rs rs2 j => (takeTarget p j es).map fun (t, r) => (.compare c rs (.register rs2) t, r)
  | .compareMode c rs m j => (takeSourceAndTarget p m j es).map fun (ot, r) => (.compare c rs (.source ot.1) ot.2, r)
  | .jump j => (takeTarget p j es).map fun (t, r) => (.jump t, r)
  | .call j => (takeTarget p j es).map fun (t, r) => (.call t, r)

/-- The decoder (30 R99): the instruction at the front of a list of words, and the words after it. -/
def decode (p : Params) : List Word → Except DecodeError (Instr × List Word)
  | [] => .error .tooShort
  | w :: es => do
    let h ← decodeHead p w
    let (f, r) ← h.complete p es
    .ok (f.instr, r)

/-- A first word from its upper byte and the two nibbles of its control code (30 R81, R84). -/
def firstWord (u : Byte) (hi lo : BitVec 4) : Word := u ++ hi ++ lo

/-- A register number or bit index as a 4-bit field (30 R85, R86). -/
def numberField (r : Fin 16) : BitVec 4 := BitVec.ofFin r

/-- The mode code of a place (30 R96). -/
def Place.code : Place → BitVec 4
  | .direct _ => 0b0010
  | .absolute _ => 0b0011
  | .relative _ => 0b0100
  | .indirectY => 0b0101
  | .indexedY _ => 0b0110
  | .indirectZ => 0b1101
  | .indexedZ _ => 0b1110

/-- The mode code of an OS = 1 operand (30 R96). -/
def Source.code : Source → BitVec 4
  | .immediate _ => 0b0001
  | .memory q => q.code

/-- The extension words of a place (30 R91 to R95). -/
def Place.ext (p : Params) : Place → List Word
  | .direct a => [a]
  | .absolute a => addrWords p.instrOrder a
  | .relative o => [o]
  | .indirectY => []
  | .indexedY o => [o]
  | .indirectZ => []
  | .indexedZ o => [o]

/-- The extension words of an OS = 1 operand (30 R90 to R95). -/
def Source.ext (p : Params) : Source → List Word
  | .immediate v => [v]
  | .memory q => q.ext p

/-- The extension words of a jump target (30 R97). -/
def Target.ext (p : Params) : Target → List Word
  | .relative o => [o]
  | .absolute a => addrWords p.instrOrder a

/-- The BRT bit as what it adds to the upper byte: bit 9 of the word, bit 1 of the byte (30 R82). -/
def Target.brt : Target → Byte
  | .relative _ => 0x00
  | .absolute _ => 0x02

/-- The upper byte of the register form of a two-operand operation (30 R100). -/
def AluOp.upper : AluOp → Byte
  | .add => 0x40
  | .sub => 0x48
  | .and => 0x50
  | .or => 0x52
  | .xor => 0x54

/-- The upper byte of a one-register operation (30 R100). -/
def UnaryOp.upper : UnaryOp → Byte
  | .inc => 0x44
  | .dec => 0x4C
  | .not => 0x56
  | .lsl => 0x58
  | .lsr => 0x5A
  | .lrl => 0x5C
  | .lrr => 0x5E
  | .lsb => 0x60

/-- The upper byte of a bit test with a relative target (30 R100). -/
def BitTest.upper : BitTest → Byte
  | .set => 0x88
  | .clear => 0x8C

/-- The upper byte of a counting branch with a relative target (30 R100). -/
def CountTest.upper : CountTest → Byte
  | .zero => 0x90
  | .nonzero => 0x94

/-- The upper byte of a register-mode compare with a relative target (30 R100). -/
def Cmp.upper : Cmp → Byte
  | .eq => 0x98
  | .ne => 0x9C
  | .gt => 0xA0
  | .ge => 0xA4

/-- The OS bit: 0 in the register form, 1 in the address-mode form (30 R83). -/
def Operand.os : Operand → Byte
  | .register _ => 0x00
  | .source _ => 0x01

/-- Bits 7:4 of a two-operand form: the second register or the mode code (30 R84, types 4 and 5). -/
def Operand.nibble : Operand → BitVec 4
  | .register r => numberField r
  | .source o => o.code

/-- The extension words of the second operand (30 R96). -/
def Operand.ext (p : Params) : Operand → List Word
  | .register _ => []
  | .source o => o.ext p

/-- The first word of an instruction (30 R100 to R103). -/
def Form.first : Form → Word
  | .load rd src => firstWord 0x03 src.code (numberField rd)
  | .store rs q => firstWord 0x05 q.code (numberField rs)
  | .move rd rs => firstWord 0x06 (numberField rs) (numberField rd)
  | .alu op rd o => firstWord (op.upper ||| o.os) o.nibble (numberField rd)
  | .unary op rd => firstWord op.upper 0 (numberField rd)
  | .bitBranch b rs f t => firstWord (b.upper ||| t.brt) (numberField f) (numberField rs)
  | .countBranch b rd t => firstWord (b.upper ||| t.brt) 0 (numberField rd)
  | .compare c rs o t => firstWord (c.upper ||| t.brt ||| o.os) o.nibble (numberField rs)
  | .jump t => firstWord (0xA8 ||| t.brt) 0 0
  | .call t => firstWord (0xAC ||| t.brt) 0 0
  | .ret => 0xB000
  | .reti => 0xB400
  | .push rs => firstWord 0xC0 0 (numberField rs)
  | .pop rd => firstWord 0xC2 0 (numberField rd)
  | .setBit rd f => firstWord 0xC4 (numberField f) (numberField rd)
  | .resetBit rd f => firstWord 0xC6 (numberField f) (numberField rd)
  | .halt => 0xFEFF
  | .nop => 0xFFFF

/-- The extension words of an instruction, a compare's in the order EXT_ORDER gives (30 R98, R104). -/
def Form.ext (p : Params) : Form → List Word
  | .load _ src => src.ext p
  | .store _ q => q.ext p
  | .alu _ _ o => o.ext p
  | .bitBranch _ _ _ t => t.ext p
  | .countBranch _ _ t => t.ext p
  | .compare _ _ o t =>
    match p.extOrder with
    | .operandFirst => o.ext p ++ t.ext p
    | .targetFirst => t.ext p ++ o.ext p
  | .jump t => t.ext p
  | .call t => t.ext p
  | .move _ _ => []
  | .unary _ _ => []
  | .ret => []
  | .reti => []
  | .push _ => []
  | .pop _ => []
  | .setBit _ _ => []
  | .resetBit _ _ => []
  | .halt => []
  | .nop => []

/-- The words of an instruction, in ascending address order (30 R80). -/
def encode (p : Params) (i : Instr) : List Word := i.form.first :: i.form.ext p

/-- Word `k` of an instruction given as one number: bits 16k+15 to 16k. -/
def wordOfTable (w k : Nat) : Word := BitVec.ofNat 16 (w / 2 ^ (16 * k))

/-- The five words an instruction may have, from the number of opcode_table.json; every bit from `nbits` up is 0. -/
def wordsOfTable (nbits w : Nat) : List Word :=
  let v := w % 2 ^ nbits
  [wordOfTable v 0, wordOfTable v 1, wordOfTable v 2, wordOfTable v 3, wordOfTable v 4]

/-- The instruction the decoder reads, under the reference parameters, from a row's bits. -/
def decodeTableWord (nbits w : Nat) : Option Instr :=
  match decode referenceParams (wordsOfTable nbits w) with
  | .ok (i, _) => some i
  | .error _ => none

end Sys2Proof
end

