-- ==== Sys2Proof/Machine/Fetch.lean ====
section
/-! DEFINITION. Fetching an instruction (spec/30_encoding.md R99) and placing one where the next step fetches it. -/

namespace Sys2Proof.Machine

/-- Steps 1 to 4 of 30 R99: the first word at PC0, then the extension words it asks for, in ascending order (20 R58,
R66); a word that spells no instruction is `ReservedInstruction(w)`. -/
def fetch (s : State) : Except Stop (Instr × State) := do
  let (w, s1) ← s.memRead s.pc
  match decodeHead s.params w with
  | .error e => .error (.fault (.reservedInstruction w e))
  | .ok h => do
    let (es, s2) ← readWords h.extWords (s.pc + 1) s1
    match h.complete s.params es with
    | .error e => .error (.fault (.reservedInstruction w e))
    | .ok (f, _) => .ok (f.instr, s2)

/-- A list of words stored at ascending addresses, as a program loaded from outside the machine (70 R234). -/
def loadWords : List Word → Addr → Memory → Memory
  | [], _, m => m
  | w :: ws, a, m => loadWords ws (a + 1) (m.writeWord a w)

/-- The state with an instruction's words at the program counter, and nothing to be done before it is fetched: no input,
no reset, no halt, no interrupt to take (log entry 20). -/
def State.placeInstruction (ws : List Word) (s : State) : State :=
  { s with
    mem := loadWords ws s.pc s.mem
    inputs := []
    resetAsserted := false
    halted := false
    irq := if s.flag .ie then [] else s.irq }

end Sys2Proof.Machine
end

