-- ==== Sys2Proof/Machine/Step.lean ====
section
/-! DEFINITION. One step of the machine (spec/00_scope.md R12). -/

namespace Sys2Proof.Machine

/-- What the CPU does at an instruction boundary, in the order of 00 R12: reset; else an interrupt that is due; else
nothing while it is halted; else it fetches and executes one instruction. -/
def boundary (s : State) : Host.Outcome State Fault Refusal :=
  if s.resetAsserted then finish s.performReset
  else match s.dueInterrupt with
    | some n => finish (s.enterInterrupt n)
    | none =>
      if s.halted then .next s
      else match fetch s with
        | .ok (i, s1) => exec i s1
        | .error e => e.outcome

/-- One step: what the environment does before this boundary, then the boundary (00 R12, log entry 23). -/
def step (s : State) : Host.Outcome State Fault Refusal := boundary s.takeInputs

/-- The state with an instruction of spec/opcode_table.json, given as one number, where step fetches its next
instruction (log entry 20). -/
def State.withFetchWord (s : State) (nbits w : Nat) : State := s.placeInstruction (wordsOfTable nbits w)

end Sys2Proof.Machine
end

