-- ==== Sys2Proof/Safety.lean ====
section
/-! DEFINITION. The terms the claims use: which accesses go through and what they give, what an action leaves unchanged, and
the invariant every step keeps. -/

namespace Sys2Proof.Machine

/-! ### Accesses that go through -/

/-- A read at `a` gives a word: a device answers, or RAM or flash holds a value there (20 R55, R56). -/
def State.readable (s : State) (a : Addr) : Bool :=
  match kindAt s.params a with
  | none => false
  | some .device => true
  | some .ram => (s.mem.readWord a).isSome
  | some .flash => (s.mem.readWord a).isSome

/-- The word a read at a readable address gives: the free value of a device, or what is held. -/
def State.valueAt (s : State) (a : Addr) : Word :=
  match kindAt s.params a with
  | some .device => Config.freeWord s.draws
  | _ => (s.mem.readWord a).getD 0

/-- The state after a read at `a`: only a device read leaves a trace (20 R62). -/
def State.afterRead (s : State) (a : Addr) : State :=
  match kindAt s.params a with
  | some .device => s.afterDeviceRead a
  | _ => s

/-- RAM answers at `a`. -/
def State.ramAt (s : State) (a : Addr) : Bool := kindAt s.params a == some .ram

/-- RAM or flash holds the word `v` at `a`. -/
def State.holds (s : State) (a : Addr) (v : Word) : Bool :=
  (kindAt s.params a == some .ram || kindAt s.params a == some .flash) && s.mem.readWord a == some v

/-- The second operand can be read. -/
def State.operandReadable (s : State) : Operand → Bool
  | .register _ => true
  | .source (.immediate _) => true
  | .source (.memory q) => s.readable (s.ea q)

/-- The second operand's value (30 R89). -/
def State.operandValue (s : State) : Operand → Word
  | .register r => s.readReg r
  | .source (.immediate v) => v
  | .source (.memory q) => s.valueAt (s.ea q)

/-- The state after the second operand is read. -/
def State.afterOperand (s : State) : Operand → State
  | .register _ => s
  | .source (.immediate _) => s
  | .source (.memory q) => s.afterRead (s.ea q)

/-- The stack address of the `k`-th word pushed from here, counting from 0 (10 R26). -/
def State.slotBelow (s : State) (k : Nat) : Addr :=
  match s.params.stack with
  | .writeThenDecrement => stackAddr (s.sp - BitVec.ofNat 16 k)
  | .decrementThenWrite => stackAddr (s.sp - BitVec.ofNat 16 (k + 1))

/-- The stack address of the `k`-th word popped from here, counting from 0 (10 R26). -/
def State.slotAbove (s : State) (k : Nat) : Addr :=
  match s.params.stack with
  | .writeThenDecrement => stackAddr (s.sp + BitVec.ofNat 16 (k + 1))
  | .decrementThenWrite => stackAddr (s.sp + BitVec.ofNat 16 k)

/-- The fifteen words of an interrupt frame, the first pushed first (60 R207, R208): the return address, R00 to R11, and
F as read once the request has left the FIFO. -/
def State.frameWords (s : State) : List Word :=
  addrWords s.params.stackOrder s.pc ++ s.savedRegs ++ [s.dropRequest.readFlags]

/-- The CPU is at a boundary where it fetches an instruction: no input, no reset, nothing due, not halted (00 R12). -/
def State.fetching (s : State) : Bool :=
  s.inputs.isEmpty && !s.resetAsserted && s.dueInterrupt.isNone && !s.halted

/-! ### What an action leaves unchanged -/

/-- The state that no ordinary instruction touches: R15's high byte, the FIFO, the halted bit, the reset line, the
environment's inputs, the parameters. -/
def Untouched (s t : State) : Prop :=
  t.pchHigh = s.pchHigh ∧ t.irq = s.irq ∧ t.halted = s.halted ∧ t.resetAsserted = s.resetAsserted ∧
    t.inputs = s.inputs ∧ t.params = s.params

/-- Every byte of memory reads as before. -/
def SameMemory (s t : State) : Prop := ∀ k : Nat, t.mem.readByte k = s.mem.readByte k

/-- The two bytes of the word at `a`. -/
def wordBytes (a : Addr) : List Nat := [2 * a.toNat, 2 * a.toNat + 1]

/-- Every byte of memory outside the words at the addresses given reads as before. -/
def SameMemoryBut (as : List Addr) (s t : State) : Prop :=
  ∀ k : Nat, (∀ a ∈ as, k ∉ wordBytes a) → t.mem.readByte k = s.mem.readByte k

/-- No device was accessed and no free value drawn. -/
def SameBus (s t : State) : Prop := t.events = s.events ∧ t.draws = s.draws

/-- R00 to R12 but those listed read as before. -/
def SameRegsBut (l : List Reg) (s t : State) : Prop :=
  ∀ r : Reg, r.val < 13 → r ∉ l → t.readReg r = s.readReg r

/-- Every stored bit of R13 but those of the flags listed is as before. -/
def SameFlagsBut (l : List Flag) (s t : State) : Prop :=
  ∀ b : Fin 16, (∀ f ∈ l, b ≠ s.flagPos f) → t.flags.getLsbD b.val = s.flags.getLsbD b.val

/-- Register `rd` of R00 to R13 has been written with `v`: R00 to R12 hold it whole; of R13 every bit takes it but those
of I2, I1, I0, which keep theirs (10 R22, R34). -/
def Wrote (rd : Reg) (v : Word) (s t : State) : Prop :=
  if rd = 13 then
    ∀ b : Fin 16, t.flags.getLsbD b.val =
      (if b = s.flagPos .i2 ∨ b = s.flagPos .i1 ∨ b = s.flagPos .i0 then s.flags.getLsbD b.val else v.getLsbD b.val)
  else t.readReg rd = v

/-- The frame of an instruction that stores nothing: registers of R00 to R12 but those of `l`, stored bits of R13 but those
of the flags `fs` (all of R13 may change where R13 is in `l`), every byte of memory, and the state no ordinary
instruction touches. -/
def Frame (l : List Reg) (fs : List Flag) (s t : State) : Prop :=
  SameRegsBut l s t ∧ (13 ∉ l → SameFlagsBut fs s t) ∧ SameMemory s t ∧ Untouched s t

/-- The devices accessed and the free values drawn are those of reading the operand, once (20 R62). -/
def BusOf (o : Operand) (s t : State) : Prop :=
  t.events = (s.afterOperand o).events ∧ t.draws = (s.afterOperand o).draws

/-! ### The flags of a sum and a difference, over the integers (spec/41_alu.md R132) -/

/-- The seven flags say of `a + b` what 41 R132 gives: four carries, zero, bit 15 of the result, signed overflow. -/
def SumFlags (a b : Word) (t : State) : Prop :=
  t.flag .c = decide (2 ^ 16 ≤ a.toNat + b.toNat) ∧
  t.flag .tc = decide (2 ^ 12 ≤ a.toNat % 2 ^ 12 + b.toNat % 2 ^ 12) ∧
  t.flag .hc = decide (2 ^ 8 ≤ a.toNat % 2 ^ 8 + b.toNat % 2 ^ 8) ∧
  t.flag .qc = decide (2 ^ 4 ≤ a.toNat % 2 ^ 4 + b.toNat % 2 ^ 4) ∧
  t.flag .z = decide ((a.toNat + b.toNat) % 2 ^ 16 = 0) ∧
  t.flag .n = decide (2 ^ 15 ≤ (a.toNat + b.toNat) % 2 ^ 16) ∧
  t.flag .of = decide (a.toInt + b.toInt < -2 ^ 15 ∨ 2 ^ 15 ≤ a.toInt + b.toInt)

/-- How a borrow shows in a carry flag: 1 for a borrow under `borrow`, 0 under `notBorrow` (41 R132). -/
def carryOfBorrow (p : SubCarry) (b : Prop) [Decidable b] : Bool :=
  match p with
  | .borrow => decide b
  | .notBorrow => decide (¬ b)

/-- The seven flags say of `a - b` what 41 R132 gives: four borrows in the sense of SUB_CARRY, zero, bit 15 of the result,
signed overflow. -/
def DifferenceFlags (a b : Word) (t : State) : Prop :=
  t.flag .c = carryOfBorrow t.params.subCarry (a.toNat < b.toNat) ∧
  t.flag .tc = carryOfBorrow t.params.subCarry (a.toNat % 2 ^ 12 < b.toNat % 2 ^ 12) ∧
  t.flag .hc = carryOfBorrow t.params.subCarry (a.toNat % 2 ^ 8 < b.toNat % 2 ^ 8) ∧
  t.flag .qc = carryOfBorrow t.params.subCarry (a.toNat % 2 ^ 4 < b.toNat % 2 ^ 4) ∧
  t.flag .z = decide (a.toNat = b.toNat) ∧
  t.flag .n = decide (2 ^ 15 ≤ (a.toNat + 2 ^ 16 - b.toNat) % 2 ^ 16) ∧
  t.flag .of = decide (a.toInt - b.toInt < -2 ^ 15 ∨ 2 ^ 15 ≤ a.toInt - b.toInt)

/-! ### What the statements quantify over -/

/-- The place an instruction reads its operand from, where it reads one (20 R61). -/
def readsAt : Form → Option Place
  | .load _ (.memory q) => some q
  | .alu _ _ (.source (.memory q)) => some q
  | .compare _ _ (.source (.memory q)) _ => some q
  | _ => none

/-- `ws` stand in RAM or flash from address `a` on, at ascending addresses modulo 2^24 (20 R58). -/
def State.holdsWords (s : State) (a : Addr) (ws : List Word) : Prop :=
  ∀ k (h : k < ws.length), s.holds (a + BitVec.ofNat 24 k) ws[k] = true

/-- The words of vector `n` are `w0` and `w1` (60 R204). -/
def State.vectorIs (s : State) (n : Nat) (w0 w1 : Word) : Prop :=
  s.holds (BitVec.ofNat 24 (2 * n)) w0 = true ∧ s.holds (BitVec.ofNat 24 (2 * n + 1)) w1 = true

/-- The next fifteen stack slots are RAM, and none of them is a word of vector `n`: an interrupt can be entered. -/
def State.frameFits (s : State) (n : Nat) : Prop :=
  ∀ k < 15, s.ramAt (s.slotBelow k) = true ∧
    s.slotBelow k ≠ BitVec.ofNat 24 (2 * n) ∧ s.slotBelow k ≠ BitVec.ofNat 24 (2 * n + 1)

/-! ### The unused byte of a two-word address (30 R92, R97, R108) -/

/-- The two words of an address with `j` in the byte that has no meaning, in the order given. -/
def addrWordsWith (o : AddrOrder) (j : Byte) (a : Addr) : List Word :=
  match o with
  | .highFirst => [j ++ segment a, lowPart a]
  | .lowFirst => [lowPart a, j ++ segment a]

/-- The extension words of a place, with `j` in the unused byte of an absolute address. -/
def placeWith (p : Params) (j : Byte) : Place → List Word
  | .absolute a => addrWordsWith p.instrOrder j a
  | q => q.ext p

/-- The extension words of a second operand, with `j` in the unused byte of an absolute address. -/
def operandWith (p : Params) (j : Byte) : Operand → List Word
  | .source (.memory q) => placeWith p j q
  | o => o.ext p

/-- The extension words of a target, with `j` in the unused byte of an absolute address. -/
def targetWith (p : Params) (j : Byte) : Target → List Word
  | .absolute a => addrWordsWith p.instrOrder j a
  | .relative o => [o]

/-- The extension words of an instruction, with `jo` in the unused byte of its operand's address and `jt` in that of its
target's, where it has them; with zero in both they are the words of `encode`. -/
def extWith (p : Params) (jo jt : Byte) : Form → List Word
  | .load _ src => operandWith p jo (.source src)
  | .store _ q => placeWith p jo q
  | .alu _ _ o => operandWith p jo o
  | .bitBranch _ _ _ t => targetWith p jt t
  | .countBranch _ _ t => targetWith p jt t
  | .compare _ _ o t =>
    match p.extOrder with
    | .operandFirst => operandWith p jo o ++ targetWith p jt t
    | .targetFirst => targetWith p jt t ++ operandWith p jo o
  | .jump t => targetWith p jt t
  | .call t => targetWith p jt t
  | .move _ _ | .unary _ _ | .ret | .reti | .push _ | .pop _ | .setBit _ _ | .resetBit _ _ | .halt | .nop => []

/-- The instruction's operand is in Absolute mode (30 R92). -/
def absoluteOperand : Form → Bool
  | .load _ (.memory (.absolute _)) => true
  | .store _ (.absolute _) => true
  | .alu _ _ (.source (.memory (.absolute _))) => true
  | .compare _ _ (.source (.memory (.absolute _))) _ => true
  | _ => false

/-- The instruction's target is absolute (30 R97). -/
def absoluteTarget : Form → Bool
  | .bitBranch _ _ _ (.absolute _) => true
  | .countBranch _ _ (.absolute _) => true
  | .compare _ _ _ (.absolute _) => true
  | .jump (.absolute _) => true
  | .call (.absolute _) => true
  | _ => false

/-! ### The tables of the frame statements -/

/-- The flags an instruction writes as a side effect: the "Affected Flags" lines (10 R32). -/
def affectedFlags : Form → List Flag
  | .alu .add _ _ => [.c, .qc, .hc, .tc, .z, .n, .of]
  | .alu .sub _ _ => [.c, .qc, .hc, .tc, .z, .n, .of]
  | .alu .and _ _ => [.z]
  | .alu .or _ _ => [.z]
  | .alu .xor _ _ => [.z]
  | .unary .inc _ => [.c, .qc, .hc, .tc, .z, .n, .of]
  | .unary .dec _ => [.c, .qc, .hc, .tc, .z, .n, .of]
  | .unary .not _ => [.z]
  | .unary .lsl _ => [.z, .c]
  | .unary .lsr _ => [.z, .c]
  | .unary .lrl _ => []
  | .unary .lrr _ => []
  | .unary .lsb _ => []
  | .bitBranch _ _ _ _ => [.z]
  | .countBranch _ _ _ => [.c, .z, .n]
  | .load _ _ => []
  | .store _ _ => []
  | .move _ _ => []
  | .compare _ _ _ _ => []
  | .jump _ => []
  | .call _ => []
  | .ret => []
  | .reti => []
  | .push _ => []
  | .pop _ => []
  | .setBit _ _ => []
  | .resetBit _ _ => []
  | .halt => []
  | .nop => []

/-- The registers an instruction writes, the stack pointer where it moves it implicitly (10 R46); `reti` may restore
R00 to R13. -/
def writtenRegs : Form → List Reg
  | .load rd _ => [rd]
  | .move rd _ => [rd]
  | .alu _ rd _ => [rd]
  | .unary _ rd => [rd]
  | .countBranch _ rd _ => [rd]
  | .setBit rd _ => [rd]
  | .resetBit rd _ => [rd]
  | .pop rd => [rd, 12]
  | .push _ => [12]
  | .call _ => [12]
  | .ret => [12]
  | .reti => [0, 1, 2, 3, 4, 5, 6, 7, 8, 9, 10, 11, 12, 13]
  | .store _ _ => []
  | .bitBranch _ _ _ _ => []
  | .compare _ _ _ _ => []
  | .jump _ => []
  | .halt => []
  | .nop => []

/-- The addresses an instruction stores to (20 R61): the effective address of `st`, the slots of `push` and `jms`. -/
def storedAddrs (s : State) : Form → List Addr
  | .store _ q => [s.ea q]
  | .push _ => [s.slotBelow 0]
  | .call _ => [s.slotBelow 0, s.slotBelow 1]
  | _ => []

/-! ### The invariant -/

/-- What every step keeps: memory in its canonical form (20 R50, R57), at most four requests in the FIFO (10 R39), and
FLAG_BIT injective (10 R30). -/
def State.Inv (s : State) : Prop := s.mem.wf = true ∧ s.irq.length ≤ 4 ∧ s.params.wf = true

end Sys2Proof.Machine
end

