-- ==== Sys2Proof/Certificates/Slice0/Obligations.lean ====
section
/-! DEFINITION. The statements for the provers. Each says what an instruction or the machine does, by the numbered rules of
spec/. Where a clause rests on a decision the spec marks as its own, or on a choice of the model, the docstring names the
decision (`D<n>` of spec/92_eei_decisions.md) or the log entry. All statements hold for every value of the named
parameters of spec/00_scope.md R7, but for those that name a value. -/

open Sys2Proof Sys2Proof.Machine

/-! ### Encoding -/

/-- Decoding the words of any instruction, whatever follows them, gives that instruction back and leaves what follows: no
operand bit is dropped (30 R99 to R104; decisions D17, D19). All 161 constructors, every operand value, every parameter
value. -/
def Obligations.EncodeThenDecode : Prop :=
  ∀ (p : Params) (i : Instr) (rest : List Word), decode p (encode p i ++ rest) = .ok (i, rest)

/-- Under STRICT_DECODE every word sequence that decodes is the encoding of what it decodes to: each instruction has one
spelling (30 R99 to R108; decisions D17, D19, D21, D43). -/
def Obligations.DecodeThenEncode : Prop :=
  ∀ (p : Params) (ws rest : List Word) (i : Instr),
    p.strictDecode = true → decode p ws = .ok (i, rest) → ws = encode p i ++ rest

/-- Words written out from the spec's encodings (30 R100 to R103, spec/95_test_vectors.md) decode to the instructions they
stand for, under the reference parameters: the eight modes of ld are the examples of 30 R87 (0110 for Indexed (Y) is
decision D18, log entry 40), then one word or more of each other format. -/
def Obligations.SampleWordsDecode : Prop :=
  decode referenceParams [0x0310, 0x0F0F] = .ok (.ldImmediate 0 0x0F0F, []) ∧
  decode referenceParams [0x0320, 0x0F0F] = .ok (.ldDirect 0 0x0F0F, []) ∧
  decode referenceParams [0x0330, 0x000F, 0x0F0F] = .ok (.ldAbsolute 0 0x0F0F0F, []) ∧
  decode referenceParams [0x0340, 0x0F0F] = .ok (.ldRelative 0 0x0F0F, []) ∧
  decode referenceParams [0x0350] = .ok (.ldIndirectY 0, []) ∧
  decode referenceParams [0x0360, 0x0004] = .ok (.ldIndexedY 0 0x0004, []) ∧
  decode referenceParams [0x03D0] = .ok (.ldIndirectZ 0, []) ∧
  decode referenceParams [0x03E0, 0x0004] = .ok (.ldIndexedZ 0 0x0004, []) ∧
  decode referenceParams [0x05D1] = .ok (.stIndirectZ 1, []) ∧
  decode referenceParams [0x0613] = .ok (.mv 3 1, []) ∧
  decode referenceParams [0x4832] = .ok (.subRegister 2 3, []) ∧
  decode referenceParams [0x5320, 0x0F0F] = .ok (.orDirect 0 0x0F0F, []) ∧
  decode referenceParams [0x5E01] = .ok (.lrr 1, []) ∧
  decode referenceParams [0x88DD, 0x0004] = .ok (.bbRel 13 13 0x0004, []) ∧
  decode referenceParams [0x9202, 0x0008, 0x0100] = .ok (.bzAbs 2 0x080100, []) ∧
  decode referenceParams [0x9B31, 0x0009, 0x0010, 0x0008, 0x0200] = .ok (.beqAbsoluteAbs 1 0x090010 0x080200, []) ∧
  decode referenceParams [0xAC00, 0x0010] = .ok (.jmsRel 0x0010, []) ∧
  decode referenceParams [0xB400] = .ok (.reti, []) ∧
  decode referenceParams [0xC46D] = .ok (.sb 13 6, []) ∧
  decode referenceParams [0xFEFF] = .ok (.hlt, []) ∧
  decode referenceParams [0xFFFF] = .ok (.nop, [])

/-- The first word alone fixes the length, which is 1 to 5 words, and decoding consumes exactly that many (30 R80,
R98; decision D15). -/
def Obligations.FirstWordFixesTheLength : Prop :=
  ∀ (p : Params) (w : Word) (es es' r r' : List Word) (i j : Instr),
    decode p (w :: es) = .ok (i, r) →
    1 ≤ i.length ∧ i.length ≤ 5 ∧ es.length + 1 = i.length + r.length ∧
      (decode p (w :: es') = .ok (j, r') → j.length = i.length)

/-- A fetched word whose upper byte is none of the 57 of the List of Opcodes stops the machine, and one whose upper byte is
among them never stops for that reason (30 R100, R105; decision D20, log entry 10). -/
def Obligations.UndefinedUpperByteFaults : Prop :=
  ∀ (s : State) (w : Word),
    s.fetching = true → s.holds s.pc w = true →
    (step s = .fault (.reservedInstruction w .undefinedOpcode) ↔
      w.toNat / 256 ∉ [0x03, 0x05, 0x06, 0x40, 0x41, 0x44, 0x48, 0x49, 0x4C, 0x50, 0x51, 0x52, 0x53, 0x54, 0x55, 0x56,
        0x58, 0x5A, 0x5C, 0x5E, 0x60, 0x88, 0x8A, 0x8C, 0x8E, 0x90, 0x92, 0x94, 0x96, 0x98, 0x99, 0x9A, 0x9B, 0x9C,
        0x9D, 0x9E, 0x9F, 0xA0, 0xA1, 0xA2, 0xA3, 0xA4, 0xA5, 0xA6, 0xA7, 0xA8, 0xAA, 0xAC, 0xAE, 0xB0, 0xB4, 0xC0,
        0xC2, 0xC4, 0xC6, 0xFE, 0xFF])

/-- A fetched word with a mode field whose code is unassigned, or a store in Immediate mode, stops the machine (30 R106,
R121; decision D43, log entry 10). -/
def Obligations.ReservedModesFault : Prop :=
  ∀ (s : State) (w : Word),
    s.fetching = true → s.holds s.pc w = true →
    w.toNat / 256 ∈ [0x03, 0x05, 0x41, 0x49, 0x51, 0x53, 0x55, 0x99, 0x9B, 0x9D, 0x9F, 0xA1, 0xA3, 0xA5, 0xA7] →
    (w.toNat / 16 % 16 ∈ [0b0000, 0b0111, 0b1000, 0b1001, 0b1010, 0b1011, 0b1100, 0b1111] ∨
      (w.toNat / 256 = 0x05 ∧ w.toNat / 16 % 16 = 0b0001)) →
    step s = .fault (.reservedInstruction w .reservedMode)

/-- Bits that a layout prints as zero, and the control codes of hlt and nop: under STRICT_DECODE a word that breaks them
stops the machine; otherwise those bits are ignored (30 R107; decision D21, log entry 9). First words with bits 7:4 zero:
`R1`, `B-R1`; with bits 7:0 zero: `B-0`, `N0`; hlt and nop have 0xFF. -/
def Obligations.MustBeZeroBits : Prop :=
  (∀ (s : State) (w : Word), s.fetching = true → s.holds s.pc w = true → s.params.strictDecode = true →
    ((w.toNat / 256 ∈ [0x44, 0x4C, 0x56, 0x58, 0x5A, 0x5C, 0x5E, 0x60, 0xC0, 0xC2, 0x90, 0x92, 0x94, 0x96] ∧
        w.toNat / 16 % 16 ≠ 0) ∨
      (w.toNat / 256 ∈ [0xA8, 0xAA, 0xAC, 0xAE, 0xB0, 0xB4] ∧ w.toNat % 256 ≠ 0) ∨
      (w.toNat / 256 ∈ [0xFE, 0xFF] ∧ w.toNat % 256 ≠ 0xFF)) →
    step s = .fault (.reservedInstruction w .mustBeZero)) ∧
  (∀ (p : Params) (u : Byte) (hi lo hi' lo' : BitVec 4) (es : List Word), p.strictDecode = false →
    (u.toNat ∈ [0x44, 0x4C, 0x56, 0x58, 0x5A, 0x5C, 0x5E, 0x60, 0xC0, 0xC2, 0x90, 0x92, 0x94, 0x96] →
      decode p (firstWord u hi lo :: es) = decode p (firstWord u 0 lo :: es)) ∧
    (u.toNat ∈ [0xA8, 0xAA, 0xAC, 0xAE, 0xB0, 0xB4, 0xFE, 0xFF] →
      decode p (firstWord u hi lo :: es) = decode p (firstWord u hi' lo' :: es)))

/-- The unused byte of a two-word address, in every form that has such an address and in both word orders: the absolute
operand of ld, st, add, sub, and, or, xor and the compares, the absolute target of jmp, jms, bb, bnb, bz, bnz and the
compares. Under STRICT_DECODE the words of an instruction with anything but zero there decode to nothing, and a machine
that fetches them stops; otherwise the byte is ignored (30 R92, R97, R108; decisions D17, D20, log entries 5, 9, 10). `jo`
is the unused byte of the operand's address, `jt` that of the target's. The last clause says what address two words are,
as a number. -/
def Obligations.AddressUnusedByte : Prop :=
  (∀ (p : Params) (i : Instr) (jo jt : Byte) (rest : List Word),
    decode p (i.form.first :: extWith p jo jt i.form ++ rest) =
      if p.strictDecode = true ∧ (absoluteOperand i.form = true ∧ jo ≠ 0 ∨ absoluteTarget i.form = true ∧ jt ≠ 0)
      then .error .addressJunk else .ok (i, rest)) ∧
  (∀ (s : State) (i : Instr) (jo jt : Byte),
    s.fetching = true → s.holdsWords s.pc (i.form.first :: extWith s.params jo jt i.form) →
    s.params.strictDecode = true → (absoluteOperand i.form = true ∧ jo ≠ 0 ∨ absoluteTarget i.form = true ∧ jt ≠ 0) →
    step s = .fault (.reservedInstruction i.form.first .addressJunk)) ∧
  (∀ (p : Params) (rd : Reg) (hi lo : Word) (ws rest : List Word),
    ws = (match p.instrOrder with | .highFirst => [hi, lo] | .lowFirst => [lo, hi]) →
    (p.strictDecode = true → 256 ≤ hi.toNat →
      decode p (0xAA00 :: ws ++ rest) = .error .addressJunk ∧
      decode p (firstWord 0x03 0b0011 (numberField rd) :: ws ++ rest) = .error .addressJunk) ∧
    (p.strictDecode = false ∨ hi.toNat < 256 →
      ∃ a : Addr, a.toNat = hi.toNat % 256 * 65536 + lo.toNat ∧
        decode p (0xAA00 :: ws ++ rest) = .ok (.jmpAbs a, rest) ∧
        decode p (firstWord 0x03 0b0011 (numberField rd) :: ws ++ rest) = .ok (.ldAbsolute rd a, rest)))

/-! ### The step -/

/-- A step runs the decoded instruction: after the environment's inputs, with no reset, nothing due and no halt, when the
words at the program counter decode to an instruction, the step is exactly its `exec` on that state: fetching from RAM or
flash changes nothing (00 R12, 30 R99, 20 R62; log entry 23). Words fetched from a device are free values. -/
def Obligations.StepRunsTheDecodedInstruction : Prop :=
  ∀ (s u : State) (ws : List Word) (i : Instr),
    u = s.takeInputs → u.resetAsserted = false → u.dueInterrupt = none → u.halted = false →
    decode u.params ws = .ok (i, []) → u.holdsWords u.pc ws →
    step s = exec i u

/-- An interrupt is taken at a boundary exactly when IE = 1 and the FIFO is not empty, and then before any fetch; with
IE = 0 or an empty FIFO a machine that is not halted fetches and executes (60 R205, 00 R12; decision D35, log
entry 26). -/
def Obligations.InterruptTakenExactly : Prop :=
  ∀ (s u : State), u = s.takeInputs → u.resetAsserted = false →
    (∀ (n : IrqCode) (l : List IrqCode), u.flag .ie = true → u.irq = n :: l →
      ∀ t, u.enterInterrupt n = .ok t → step s = .next t) ∧
    ((u.flag .ie = false ∨ u.irq = []) → u.halted = false →
      (∀ i v, fetch u = .ok (i, v) → step s = exec i v) ∧
      (∀ e, fetch u = .error e → step s = e.outcome))

/-- The halted bit: hlt sets it; a taken interrupt and a reset clear it; while it is set and neither happens the CPU
fetches and executes nothing (10 R40). THE MODEL'S CHOICES: that such a step answers the state after the inputs, unchanged
(00 R12, 43 R195; decision D37; log entries 28, 41), and that the inputs come first in a step (log entry 23). -/
def Obligations.HaltedBit : Prop :=
  ∀ (s u : State), u = s.takeInputs →
    (∃ t, exec .hlt s = .next t ∧ t.halted = true) ∧
    (∀ t, u.resetAsserted = true → step s = .next t → t.halted = false) ∧
    (∀ t, u.resetAsserted = false → u.dueInterrupt.isSome = true → step s = .next t → t.halted = false) ∧
    (u.resetAsserted = false → u.dueInterrupt = none → u.halted = true → step s = .next u)

/-! ### Data transfer -/

/-- ld, in all eight modes: Rd takes the operand, which is read once (40 R120). THE MODEL'S CHOICES, after the spec's
decisions: a register field of 14 or 15 is refused (30 R109; decision D11, log entry 11); R13 takes every bit but those of
I2, I1, I0 (10 R34; decision D5, log entry 32). Constructors: ldImmediate, ldDirect, ldAbsolute, ldRelative, ldIndirectY,
ldIndexedY, ldIndirectZ, ldIndexedZ. -/
def Obligations.LoadCompletes : Prop :=
  ∀ (rd : Reg) (src : Source) (s : State),
    (rd.val < 14 → s.operandReadable (.source src) = true →
      ∃ t, exec (Form.load rd src).instr s = .next t ∧
        t.pc = s.pc + BitVec.ofNat 24 (1 + src.words) ∧
        Wrote rd (s.operandValue (.source src)) s t ∧
        Frame [rd] [] s t ∧ BusOf (.source src) s t) ∧
    (14 ≤ rd.val → exec (Form.load rd src).instr s = .refused .pcOperand) ∧
    (∀ p, encode p (Form.load rd src).instr = firstWord 0x03 src.code (numberField rd) :: src.ext p)

/-- st, in its seven modes: the word at the effective address becomes Rs in RAM, or Rs is sent to the device; a store to
flash is refused (or ignored, where the platform does); where nothing answers the CPU is stuck. No register and no flag
changes, and no other byte of memory (40 R121). THE MODEL'S CHOICES, after the spec's decisions: the flash and the empty
place (20 R52, R55; decision D40, log entries 14, 15); a register field of 14 or 15 is refused (30 R109; decision D11, log
entry 11). Constructors: stDirect, stAbsolute, stRelative, stIndirectY, stIndexedY, stIndirectZ, stIndexedZ. -/
def Obligations.StoreCompletes : Prop :=
  ∀ (rs : Reg) (q : Place) (s : State),
    (rs.val < 14 →
      (kindAt s.params (s.ea q) = some .ram →
        ∃ t, exec (Form.store rs q).instr s = .next t ∧
          t.mem.readWord (s.ea q) = some (s.readReg rs) ∧ SameMemoryBut [s.ea q] s t ∧
          t.pc = s.pc + BitVec.ofNat 24 (1 + q.words) ∧
          t.regs = s.regs ∧ t.flags = s.flags ∧ SameBus s t ∧ Untouched s t) ∧
      (kindAt s.params (s.ea q) = some .device →
        ∃ t, exec (Form.store rs q).instr s = .next t ∧
          t.events = s.events ++ [.deviceWrite (s.ea q) (s.readReg rs)] ∧ t.draws = s.draws ∧
          t.pc = s.pc + BitVec.ofNat 24 (1 + q.words) ∧ Frame [] [] s t) ∧
      (kindAt s.params (s.ea q) = some .flash → s.params.flashStore = .ignore →
        ∃ t, exec (Form.store rs q).instr s = .next t ∧
          t.pc = s.pc + BitVec.ofNat 24 (1 + q.words) ∧ Frame [] [] s t ∧ SameBus s t) ∧
      (kindAt s.params (s.ea q) = some .flash → s.params.flashStore = .refuse →
        exec (Form.store rs q).instr s = .refused (.flashStore (s.ea q))) ∧
      (kindAt s.params (s.ea q) = none →
        exec (Form.store rs q).instr s = .fault (.unpopulated (s.ea q)))) ∧
    (14 ≤ rs.val → exec (Form.store rs q).instr s = .refused .pcOperand) ∧
    (∀ p, encode p (Form.store rs q).instr = firstWord 0x05 q.code (numberField rs) :: q.ext p)

/-- mv: Rd takes the value of Rs; nothing else changes but the program counter (40 R122). THE MODEL'S CHOICES, after the
spec's decisions: a register field of 14 or 15 is refused (30 R109; decision D11, log entry 11); R13 takes every bit but
those of I2, I1, I0 (10 R34; decision D5, log entry 32). Constructor: mv. -/
def Obligations.MoveCompletes : Prop :=
  ∀ (rd rs : Reg) (s : State),
    (rd.val < 14 → rs.val < 14 →
      ∃ t, exec (.mv rd rs) s = .next t ∧ t.pc = s.pc + 1 ∧ Wrote rd (s.readReg rs) s t ∧
        Frame [rd] [] s t ∧ SameBus s t) ∧
    (14 ≤ rd.val ∨ 14 ≤ rs.val → exec (.mv rd rs) s = .refused .pcOperand) ∧
    (∀ p, encode p (.mv rd rs) = [firstWord 0x06 (numberField rs) (numberField rd)])

/-- The effective addresses of the seven modes, as numbers: Direct takes the segment of PC0; offsets are signed and added
modulo 2^24, through segment boundaries; Y and Z take the low byte of their high halves (30 R91 to R95, 10 R24, R25;
decisions D10, D14, D16, D46, log entries 29, 33, 39). -/
def Obligations.EffectiveAddresses : Prop :=
  ∀ (s : State) (a off : Word) (b : Addr),
    (s.ea (.direct a)).toNat = s.pc.toNat / 65536 * 65536 + a.toNat ∧
    (s.ea (.absolute b)).toNat = b.toNat ∧
    ((s.ea (.relative off)).toNat : Int) = ((s.pc.toNat : Int) + off.toInt) % 2 ^ 24 ∧
    (s.ea .indirectY).toNat = (s.readReg 9).toNat % 256 * 65536 + (s.readReg 8).toNat ∧
    (s.ea .indirectZ).toNat = (s.readReg 11).toNat % 256 * 65536 + (s.readReg 10).toNat ∧
    ((s.ea (.indexedY off)).toNat : Int) = (((s.ea .indirectY).toNat : Int) + off.toInt) % 2 ^ 24 ∧
    ((s.ea (.indexedZ off)).toNat : Int) = (((s.ea .indirectZ).toNat : Int) + off.toInt) % 2 ^ 24

/-- What a memory read does, by what answers at the address: RAM and flash give the word they hold and nothing changes; a
device gives a free value, recorded as one event; a word that holds no value, and an address where nothing answers, stop
the machine (20 R52, R55, R56, R62; decisions D40, D45, log entries 14, 16, 17). -/
def Obligations.MemoryReads : Prop :=
  ∀ (s : State) (a : Addr),
    (∀ v, s.holds a v = true → s.memRead a = .ok (v, s)) ∧
    (kindAt s.params a = some .device →
      ∃ t, s.memRead a = .ok (Config.freeWord s.draws, t) ∧
        t.events = s.events ++ [.deviceRead a (Config.freeWord s.draws)] ∧ t.draws = s.draws + 1 ∧
        t.regs = s.regs ∧ t.pc = s.pc ∧ Frame [] [] s t) ∧
    ((kindAt s.params a = some .ram ∨ kindAt s.params a = some .flash) → s.mem.readWord a = none →
      s.memRead a = .error (.fault (.unwritten a))) ∧
    (kindAt s.params a = none → s.memRead a = .error (.fault (.unpopulated a)))

/-- An instruction whose memory operand cannot be read stops, and says where: nothing answers there, or the word holds no
value. The instructions: ld, add, sub, and, or, xor, beq, bneq, bgt, bge in the modes that read memory (20 R52, R55,
R61; decisions D40, D45, log entries 14, 17). -/
def Obligations.UnreadableOperandStops : Prop :=
  ∀ (f : Form) (q : Place) (s : State), f.wf = true → readsAt f = some q →
    (kindAt s.params (s.ea q) = none → exec f.instr s = .fault (.unpopulated (s.ea q))) ∧
    ((kindAt s.params (s.ea q) = some .ram ∨ kindAt s.params (s.ea q) = some .flash) →
      s.mem.readWord (s.ea q) = none → exec f.instr s = .fault (.unwritten (s.ea q)))

/-! ### Arithmetic and logic -/

/-- add, in its nine forms, and inc: the sum modulo 2^16, and the seven flags of the exact sum; every other flag,
register and byte of memory stays (41 R132, R133, R134; decisions D22, D24, log entry 31). FLAG_BIT is injective
(`Params.wf`). The first words are those of 30 R100. Constructors: addRegister, addImmediate, addDirect, addAbsolute,
addRelative, addIndirectY, addIndexedY, addIndirectZ, addIndexedZ, inc. -/
def Obligations.AddAndIncComplete : Prop :=
  ∀ (rd : Reg) (o : Operand) (s : State), s.params.wf = true →
    ((Form.alu .add rd o).wf = true → s.operandReadable o = true →
      ∃ t, exec (Form.alu .add rd o).instr s = .next t ∧
        t.pc = s.pc + BitVec.ofNat 24 (1 + o.words) ∧
        (t.readReg rd).toNat = ((s.readReg rd).toNat + (s.operandValue o).toNat) % 2 ^ 16 ∧
        SumFlags (s.readReg rd) (s.operandValue o) t ∧
        Frame [rd] [.c, .qc, .hc, .tc, .z, .n, .of] s t ∧ BusOf o s t) ∧
    (rd.val < 13 →
      ∃ t, exec (.inc rd) s = .next t ∧ t.pc = s.pc + 1 ∧
        (t.readReg rd).toNat = ((s.readReg rd).toNat + 1) % 2 ^ 16 ∧
        SumFlags (s.readReg rd) 1 t ∧
        Frame [rd] [.c, .qc, .hc, .tc, .z, .n, .of] s t ∧ SameBus s t) ∧
    (∀ p, encode p (Form.alu .add rd o).instr = firstWord (0x40 ||| o.os) o.nibble (numberField rd) :: o.ext p ∧
      encode p (.inc rd) = [firstWord 0x44 0 (numberField rd)])

/-- sub, in its nine forms, and dec: the difference modulo 2^16, and the seven flags of the exact difference, the
carries in the sense of SUB_CARRY; every other flag, register and byte of memory stays (41 R132, R135, R136; decisions
D22, D23, D24, log entries 7, 31). The first words are those of 30 R100. Constructors: subRegister, subImmediate,
subDirect, subAbsolute, subRelative, subIndirectY, subIndexedY, subIndirectZ, subIndexedZ, dec. -/
def Obligations.SubAndDecComplete : Prop :=
  ∀ (rd : Reg) (o : Operand) (s : State), s.params.wf = true →
    ((Form.alu .sub rd o).wf = true → s.operandReadable o = true →
      ∃ t, exec (Form.alu .sub rd o).instr s = .next t ∧
        t.pc = s.pc + BitVec.ofNat 24 (1 + o.words) ∧
        ((t.readReg rd).toNat : Int) = ((s.readReg rd).toNat - (s.operandValue o).toNat : Int) % 2 ^ 16 ∧
        DifferenceFlags (s.readReg rd) (s.operandValue o) t ∧
        Frame [rd] [.c, .qc, .hc, .tc, .z, .n, .of] s t ∧ BusOf o s t) ∧
    (rd.val < 13 →
      ∃ t, exec (.dec rd) s = .next t ∧ t.pc = s.pc + 1 ∧
        ((t.readReg rd).toNat : Int) = ((s.readReg rd).toNat - 1 : Int) % 2 ^ 16 ∧
        DifferenceFlags (s.readReg rd) 1 t ∧
        Frame [rd] [.c, .qc, .hc, .tc, .z, .n, .of] s t ∧ SameBus s t) ∧
    (∀ p, encode p (Form.alu .sub rd o).instr = firstWord (0x48 ||| o.os) o.nibble (numberField rd) :: o.ext p ∧
      encode p (.dec rd) = [firstWord 0x4C 0 (numberField rd)])

/-- and, or, xor, in their nine forms each: the bitwise result, Z from it, and no other flag (41 R137, R138, R139).
Constructors: andRegister, andImmediate, andDirect, andAbsolute, andRelative, andIndirectY, andIndexedY, andIndirectZ,
andIndexedZ, and the nine of or and the nine of xor with the same endings. -/
def Obligations.LogicCompletes : Prop :=
  ∀ (op : AluOp) (rd : Reg) (o : Operand) (s : State), s.params.wf = true → op ∈ [.and, .or, .xor] →
    (Form.alu op rd o).wf = true → s.operandReadable o = true →
      ∃ t, exec (Form.alu op rd o).instr s = .next t ∧
        t.pc = s.pc + BitVec.ofNat 24 (1 + o.words) ∧
        (∀ k : Fin 16, (t.readReg rd).getLsbD k.val =
          match op with
          | .and => (s.readReg rd).getLsbD k.val && (s.operandValue o).getLsbD k.val
          | .or => (s.readReg rd).getLsbD k.val || (s.operandValue o).getLsbD k.val
          | _ => (s.readReg rd).getLsbD k.val ^^ (s.operandValue o).getLsbD k.val) ∧
        t.flag .z = decide (t.readReg rd = 0) ∧
        Frame [rd] [.z] s t ∧ BusOf o s t ∧
        (∀ p, encode p (Form.alu op rd o).instr =
          firstWord ((match op with | .and => 0x50 | .or => 0x52 | _ => 0x54) ||| o.os) o.nibble (numberField rd)
            :: o.ext p)

/-- not: every bit inverted, Z from the result, no other flag (41 R140). Constructor: not. -/
def Obligations.NotCompletes : Prop :=
  ∀ (rd : Reg) (s : State), s.params.wf = true → rd.val < 13 →
    (∃ t, exec (.not rd) s = .next t ∧ t.pc = s.pc + 1 ∧
      (∀ k : Fin 16, (t.readReg rd).getLsbD k.val = !(s.readReg rd).getLsbD k.val) ∧
      t.flag .z = decide (s.readReg rd = 0xFFFF) ∧
      Frame [rd] [.z] s t ∧ SameBus s t) ∧
    (∀ p, encode p (.not rd) = [firstWord 0x56 0 (numberField rd)])

/-- lsl and lsr: each bit moves by one place, the old C comes in, C takes the bit shifted out, Z the result's
zero-ness; no other flag (41 R141, R142; decision D25, log entry 31). The first words are those of 30 R100.
Constructors: lsl, lsr. -/
def Obligations.ShiftsComplete : Prop :=
  ∀ (rd : Reg) (s : State), s.params.wf = true → rd.val < 13 →
    (∃ t, exec (.lsl rd) s = .next t ∧ t.pc = s.pc + 1 ∧
      (∀ k : Fin 16, (t.readReg rd).getLsbD k.val =
        if k.val = 0 then s.flag .c else (s.readReg rd).getLsbD (k.val - 1)) ∧
      t.flag .c = (s.readReg rd).getLsbD 15 ∧ t.flag .z = decide (t.readReg rd = 0) ∧
      Frame [rd] [.z, .c] s t ∧ SameBus s t) ∧
    (∃ t, exec (.lsr rd) s = .next t ∧ t.pc = s.pc + 1 ∧
      (∀ k : Fin 16, (t.readReg rd).getLsbD k.val =
        if k.val = 15 then s.flag .c else (s.readReg rd).getLsbD (k.val + 1)) ∧
      t.flag .c = (s.readReg rd).getLsbD 0 ∧ t.flag .z = decide (t.readReg rd = 0) ∧
      Frame [rd] [.z, .c] s t ∧ SameBus s t) ∧
    (∀ p, encode p (.lsl rd) = [firstWord 0x58 0 (numberField rd)] ∧
      encode p (.lsr rd) = [firstWord 0x5A 0 (numberField rd)])

/-- lrl, lrr, lsb: bit `k` comes from bit `k - 1`, `k + 1`, `k + 8` modulo 16; no flag is touched as a side effect (41 R143,
R144, R146). THE MODEL'S CHOICES, after the spec's decisions: R13 is admitted as data (41 R131; decision D13, log entry 13),
and takes every bit but those of I2, I1, I0 (10 R34; decision D5, log entry 32). Constructors: lrl, lrr, lsb. -/
def Obligations.RotatesAndSwapComplete : Prop :=
  ∀ (rd : Reg) (s : State), rd.val < 14 →
    (∃ t v, exec (.lrl rd) s = .next t ∧ t.pc = s.pc + 1 ∧ Wrote rd v s t ∧
      (∀ k : Fin 16, v.getLsbD k.val = (s.readReg rd).getLsbD ((k.val + 15) % 16)) ∧
      Frame [rd] [] s t ∧ SameBus s t) ∧
    (∃ t v, exec (.lrr rd) s = .next t ∧ t.pc = s.pc + 1 ∧ Wrote rd v s t ∧
      (∀ k : Fin 16, v.getLsbD k.val = (s.readReg rd).getLsbD ((k.val + 1) % 16)) ∧
      Frame [rd] [] s t ∧ SameBus s t) ∧
    (∃ t v, exec (.lsb rd) s = .next t ∧ t.pc = s.pc + 1 ∧ Wrote rd v s t ∧
      (∀ k : Fin 16, v.getLsbD k.val = (s.readReg rd).getLsbD ((k.val + 8) % 16)) ∧
      Frame [rd] [] s t ∧ SameBus s t) ∧
    (∀ p, encode p (.lrl rd) = [firstWord 0x5C 0 (numberField rd)] ∧
      encode p (.lrr rd) = [firstWord 0x5E 0 (numberField rd)] ∧
      encode p (.lsb rd) = [firstWord 0x60 0 (numberField rd)])

/-- The algebra of the one-register operations on a word: lrr undoes lrl, lsb and not undo themselves, sixteen lrl are the
identity, and seventeen lsl restore the word and C (41 R140, R141, R143, R144, R146, their corner cases). -/
def Obligations.RotationIdentities : Prop :=
  ∀ (a : Word) (c : Bool),
    unaryResult .lrr (unaryResult .lrl a c) c = a ∧
    unaryResult .lrl (unaryResult .lrr a c) c = a ∧
    unaryResult .lsb (unaryResult .lsb a c) c = a ∧
    unaryResult .not (unaryResult .not a c) c = a ∧
    (fun x => unaryResult .lrl x c)^[16] a = a ∧
    (fun x : Word × Bool => (unaryResult .lsl x.1 x.2, x.1.getLsbD 15))^[17] (a, c) = (a, c)

/-! ### Control flow -/

/-- The target of a jump or branch: relative to PC0 with a signed offset, modulo 2^24, or the address itself (30 R97;
decisions D14, D15, D17, log entries 29, 39). -/
def Obligations.TargetArithmetic : Prop :=
  ∀ (s : State) (off : Word) (a : Addr),
    ((s.target (.relative off)).toNat : Int) = ((s.pc.toNat : Int) + off.toInt) % 2 ^ 24 ∧
    s.target (.absolute a) = a

/-- bb and bnb: the register is read before Z is written; Z is 1 exactly when the tested bit is 0; bb branches on a 1,
bnb on a 0, else the next instruction follows; the tested bit is bit `f` or `15 - f` by BITSEL (42 R161, R162, 30 R86;
decisions D2, D28, log entries 3, 31). The first words are those of 30 R100. Constructors: bbRel, bbAbs, bnbRel,
bnbAbs. -/
def Obligations.BitTestsComplete : Prop :=
  ∀ (b : BitTest) (rs : Reg) (f : BitIndex) (g : Target) (s : State) (bit : Bool),
    s.params.wf = true → rs.val < 14 →
    bit = (s.readReg rs).getLsbD (match s.params.bitSelect with | .weight => f.val | .figure => 15 - f.val) →
    ∃ t, exec (Form.bitBranch b rs f g).instr s = .next t ∧
      t.pc = (if bit = (match b with | .set => true | .clear => false) then s.target g
        else s.pc + BitVec.ofNat 24 (1 + g.words)) ∧
      t.flag .z = !bit ∧ Frame [] [.z] s t ∧ SameBus s t ∧
      (∀ p, encode p (Form.bitBranch b rs f g).instr =
        firstWord ((match b with | .set => 0x88 | .clear => 0x8C) ||| g.brt) (numberField f) (numberField rs)
          :: g.ext p)

/-- bz and bnz on a register that is not zero: it is decremented, without wrap; C, Z, N are those of the subtraction,
QC, HC, TC, OF stay; bz falls through, bnz branches (42 R163, R164; decisions D23, D27, log entries 7, 22). The first
words are those of 30 R100. Constructors: bzRel, bzAbs, bnzRel, bnzAbs. -/
def Obligations.CountBranchDecrements : Prop :=
  ∀ (b : CountTest) (rd : Reg) (g : Target) (s : State), s.params.wf = true → rd.val < 13 → s.readReg rd ≠ 0 →
    ∃ t, exec (Form.countBranch b rd g).instr s = .next t ∧
      (t.readReg rd).toNat + 1 = (s.readReg rd).toNat ∧
      t.pc = (match b with | .zero => s.pc + BitVec.ofNat 24 (1 + g.words) | .nonzero => s.target g) ∧
      t.flag .c = (match s.params.subCarry with | .borrow => false | .notBorrow => true) ∧
      t.flag .z = decide ((s.readReg rd).toNat = 1) ∧
      t.flag .n = decide (2 ^ 15 + 1 ≤ (s.readReg rd).toNat) ∧
      Frame [rd] [.c, .z, .n] s t ∧ SameBus s t ∧
      (∀ p, encode p (Form.countBranch b rd g).instr =
        firstWord ((match b with | .zero => 0x90 | .nonzero => 0x94) ||| g.brt) 0 (numberField rd) :: g.ext p)

/-- bz and bnz on a register that is zero: it stays zero; bz branches, bnz falls through; C, Z, N take three free values,
each used once, and no other flag changes (42 R163, R164, 00 R11; decision D27, log entry 22: the free values are the
model's, and the statement holds whatever they are). Constructors: bzRel, bzAbs, bnzRel, bnzAbs. -/
def Obligations.CountBranchOnZero : Prop :=
  ∀ (b : CountTest) (rd : Reg) (g : Target) (s : State), s.params.wf = true → rd.val < 13 → s.readReg rd = 0 →
    ∃ t, exec (Form.countBranch b rd g).instr s = .next t ∧
      t.readReg rd = 0 ∧
      t.pc = (match b with | .zero => s.target g | .nonzero => s.pc + BitVec.ofNat 24 (1 + g.words)) ∧
      t.flag .c = Config.freeBit s.draws ∧ t.flag .z = Config.freeBit (s.draws + 1) ∧
      t.flag .n = Config.freeBit (s.draws + 2) ∧ t.draws = s.draws + 3 ∧ t.events = s.events ∧
      Frame [] [.c, .z, .n] s t

/-- beq and bneq, in their eighteen forms each: the operand is read once, the words are compared, the branch goes to the
target or to the next instruction; no register, no flag and no byte of memory changes (42 R165, R166, R167).
Constructors: every beq… and every bneq…. -/
def Obligations.EqualityBranchesComplete : Prop :=
  ∀ (rs : Reg) (o : Operand) (g : Target) (s : State),
    (Form.compare .eq rs o g).wf = true → s.operandReadable o = true →
    (∃ t, exec (Form.compare .eq rs o g).instr s = .next t ∧
      t.pc = (if s.readReg rs = s.operandValue o then s.target g
        else s.pc + BitVec.ofNat 24 (1 + o.words + g.words)) ∧
      t.flags = s.flags ∧ Frame [] [] s t ∧ BusOf o s t) ∧
    (∃ t, exec (Form.compare .ne rs o g).instr s = .next t ∧
      t.pc = (if s.readReg rs ≠ s.operandValue o then s.target g
        else s.pc + BitVec.ofNat 24 (1 + o.words + g.words)) ∧
      t.flags = s.flags ∧ Frame [] [] s t ∧ BusOf o s t) ∧
    (∀ p, (encode p (Form.compare .eq rs o g).instr).head? =
        some (firstWord (0x98 ||| g.brt ||| o.os) o.nibble (numberField rs)) ∧
      (encode p (Form.compare .ne rs o g).instr).head? =
        some (firstWord (0x9C ||| g.brt ||| o.os) o.nibble (numberField rs)))

/-- bgt and bge, in their eighteen forms each: the order is of unsigned numbers, or of two's-complement numbers where
CMP_SIGNED is true; the first operand is the left side; nothing but the program counter changes (42 R165, R168, R169;
decision D26, log entry 8). The first words are those of 30 R100. Constructors: every bgt… and every bge…. -/
def Obligations.OrderBranchesComplete : Prop :=
  ∀ (rs : Reg) (o : Operand) (g : Target) (s : State),
    (Form.compare .gt rs o g).wf = true → s.operandReadable o = true →
    (∃ t, exec (Form.compare .gt rs o g).instr s = .next t ∧
      t.pc = (if (if s.params.cmpSigned then (s.operandValue o).toInt < (s.readReg rs).toInt
          else (s.operandValue o).toNat < (s.readReg rs).toNat) then s.target g
        else s.pc + BitVec.ofNat 24 (1 + o.words + g.words)) ∧
      t.flags = s.flags ∧ Frame [] [] s t ∧ BusOf o s t) ∧
    (∃ t, exec (Form.compare .ge rs o g).instr s = .next t ∧
      t.pc = (if (if s.params.cmpSigned then (s.operandValue o).toInt ≤ (s.readReg rs).toInt
          else (s.operandValue o).toNat ≤ (s.readReg rs).toNat) then s.target g
        else s.pc + BitVec.ofNat 24 (1 + o.words + g.words)) ∧
      t.flags = s.flags ∧ Frame [] [] s t ∧ BusOf o s t) ∧
    (∀ p, (encode p (Form.compare .gt rs o g).instr).head? =
        some (firstWord (0xA0 ||| g.brt ||| o.os) o.nibble (numberField rs)) ∧
      (encode p (Form.compare .ge rs o g).instr).head? =
        some (firstWord (0xA4 ||| g.brt ||| o.os) o.nibble (numberField rs)))

/-- jmp: the program counter becomes the target and nothing else changes, in every state (42 R171). Constructors: jmpRel,
jmpAbs. -/
def Obligations.JumpCompletes : Prop :=
  ∀ (g : Target) (s : State),
    (∃ t, exec (Form.jump g).instr s = .next t ∧ t.pc = s.target g ∧ t.flags = s.flags ∧ Frame [] [] s t ∧
      SameBus s t) ∧
    (∀ p, encode p (Form.jump g).instr =
      (match g with | .relative _ => 0xA800 | .absolute _ => 0xAA00) :: g.ext p)

/-- jms: the address of the next instruction goes to the next two stack words in the order of ADDR_WORD_ORDER, the
stack pointer drops by two, and the program counter becomes the target, taken from PC0 (42 R172, R175; decisions D8,
D30, D31, log entries 4, 5, 30). The first words are those of 30 R100. Constructors: jmsRel, jmsAbs. -/
def Obligations.CallCompletes : Prop :=
  ∀ (g : Target) (s : State) (back : Addr), s.ramAt (s.slotBelow 0) = true → s.ramAt (s.slotBelow 1) = true →
    back = s.pc + BitVec.ofNat 24 (1 + g.words) →
    ∃ t hi lo, exec (Form.call g).instr s = .next t ∧
      hi.toNat = back.toNat / 65536 ∧ lo.toNat = back.toNat % 65536 ∧
      (match s.params.stackOrder with
        | .highFirst => t.mem.readWord (s.slotBelow 0) = some hi ∧ t.mem.readWord (s.slotBelow 1) = some lo
        | .lowFirst => t.mem.readWord (s.slotBelow 0) = some lo ∧ t.mem.readWord (s.slotBelow 1) = some hi) ∧
      t.pc = s.target g ∧ t.readReg 12 = s.readReg 12 - 2 ∧
      SameRegsBut [12] s t ∧ t.flags = s.flags ∧ SameMemoryBut [s.slotBelow 0, s.slotBelow 1] s t ∧
      Untouched s t ∧ SameBus s t ∧
      (∀ p, encode p (Form.call g).instr =
        (match g with | .relative _ => 0xAC00 | .absolute _ => 0xAE00) :: g.ext p)

/-- ret: the program counter becomes the address in the top two stack words, the unused byte ignored; the stack
pointer rises by two (42 R173, R175; decisions D8, D31, D32, log entries 4, 5, 30). The first words are those of 30
R100. Constructor: ret. -/
def Obligations.RetCompletes : Prop :=
  ∀ (s : State) (w0 w1 : Word), s.holds (s.slotAbove 0) w0 = true → s.holds (s.slotAbove 1) w1 = true →
    ∃ t, exec .ret s = .next t ∧
      t.pc.toNat = (match s.params.stackOrder with
        | .highFirst => w1.toNat % 256 * 65536 + w0.toNat
        | .lowFirst => w0.toNat % 256 * 65536 + w1.toNat) ∧
      t.readReg 12 = s.readReg 12 + 2 ∧ SameRegsBut [12] s t ∧ t.flags = s.flags ∧
      SameMemory s t ∧ Untouched s t ∧ SameBus s t ∧ (∀ p, encode p .ret = [0xB000])

/-- jms then ret comes back: from any state whose stack pointer and two stack words are as jms left them, ret continues after
the jms with the stack pointer as before it, whatever the parameters (42 R172 to R174; decisions D30, D31, log
entry 30). -/
def Obligations.CallThenReturn : Prop :=
  ∀ (g : Target) (s t u : State), s.ramAt (s.slotBelow 0) = true → s.ramAt (s.slotBelow 1) = true →
    exec (Form.call g).instr s = .next t →
    u.params = t.params → u.readReg 12 = t.readReg 12 →
    u.mem.readWord (s.slotBelow 0) = t.mem.readWord (s.slotBelow 0) →
    u.mem.readWord (s.slotBelow 1) = t.mem.readWord (s.slotBelow 1) →
    ∃ v, exec .ret u = .next v ∧ v.pc = s.pc + BitVec.ofNat 24 (1 + g.words) ∧ v.readReg 12 = s.readReg 12

/-- reti with an empty FIFO: F (but I2, I1, I0), R11 down to R00, then the return address come from the next fifteen
stack words; the stack pointer rises by fifteen; memory stays (42 R177, 60 R209; decision D36, log entry 27). The
first words are those of 30 R100. Constructor: reti. -/
def Obligations.RetiRestores : Prop :=
  ∀ (s : State) (ws : List Word) (h : ws.length = 15), s.irq = [] →
    (∀ k (hk : k < 15), s.holds (s.slotAbove k) ws[k] = true) →
    ∃ t, exec .reti s = .next t ∧
      Wrote 13 ws[0] s t ∧
      (∀ k (hk : k < 12), t.readReg ⟨11 - k, by omega⟩ = ws[1 + k]) ∧
      t.pc = pairAddr s.params.stackOrder ws[14] ws[13] ∧
      t.readReg 12 = s.readReg 12 + 15 ∧
      SameMemory s t ∧ Untouched s t ∧ SameBus s t ∧ (∀ p, encode p .reti = [0xB400])

/-- reti with a request waiting: the request leaves the FIFO, the program counter becomes its handler's address, and nothing
is popped, pushed or otherwise changed (42 R177, 60 R210; decisions D34, D36, log entries 25, 27). Constructor: reti. -/
def Obligations.RetiChains : Prop :=
  ∀ (s : State) (n : IrqCode) (l : List IrqCode) (w0 w1 : Word), s.irq = n :: l → s.vectorIs n.number w0 w1 →
    exec .reti s = .next { s with irq := l, pc := pairAddr s.params.vectorOrder w0 w1 }

/-! ### Stack, bits, halt, nop -/

/-- push: the register goes to the next stack word, which is the word at SP, or the one below under the other
STACK_DISCIPLINE, always in segment 0; SP drops by one modulo 2^16. A slot that is a device gets the word as an event;
in flash the store is refused, or ignored where the platform does; where nothing answers, the push stops (43 R190, 10
R26, 20 R52, R55; decisions D7, D8, D9, D40, log entries 4, 14, 15, 34). The first words are those of 30 R100.
Constructor: push. -/
def Obligations.PushCompletes : Prop :=
  ∀ (rs : Reg) (s : State), rs.val < 14 → rs ≠ 12 →
    ((s.slotBelow 0).toNat = (match s.params.stack with
      | .writeThenDecrement => (s.readReg 12).toNat
      | .decrementThenWrite => ((s.readReg 12).toNat + 65535) % 65536)) ∧
    (kindAt s.params (s.slotBelow 0) = some .ram →
      ∃ t, exec (.push rs) s = .next t ∧ t.pc = s.pc + 1 ∧
        t.mem.readWord (s.slotBelow 0) = some (s.readReg rs) ∧ SameMemoryBut [s.slotBelow 0] s t ∧
        t.readReg 12 = s.readReg 12 - 1 ∧ SameRegsBut [12] s t ∧ t.flags = s.flags ∧ Untouched s t ∧ SameBus s t) ∧
    (kindAt s.params (s.slotBelow 0) = some .device →
      ∃ t, exec (.push rs) s = .next t ∧ t.pc = s.pc + 1 ∧
        t.events = s.events ++ [.deviceWrite (s.slotBelow 0) (s.readReg rs)] ∧ t.draws = s.draws ∧
        t.readReg 12 = s.readReg 12 - 1 ∧ Frame [12] [] s t) ∧
    (kindAt s.params (s.slotBelow 0) = some .flash → s.params.flashStore = .ignore →
      ∃ t, exec (.push rs) s = .next t ∧ t.pc = s.pc + 1 ∧ t.readReg 12 = s.readReg 12 - 1 ∧
        Frame [12] [] s t ∧ SameBus s t) ∧
    (kindAt s.params (s.slotBelow 0) = some .flash → s.params.flashStore = .refuse →
      exec (.push rs) s = .refused (.flashStore (s.slotBelow 0))) ∧
    (kindAt s.params (s.slotBelow 0) = none → exec (.push rs) s = .fault (.unpopulated (s.slotBelow 0))) ∧
    (∀ p, encode p (.push rs) = [firstWord 0xC0 0 (numberField rs)])

/-- pop: the register takes the next stack word, R13 all but I2, I1, I0; SP rises by one modulo 2^16; the stack word
is at SP + 1, or at SP under the other STACK_DISCIPLINE, always in segment 0 (43 R191, 10 R26; decisions D5, D7, D8, D9,
log entries 4, 32, 34). The first words are those of 30 R100. Constructor: pop. -/
def Obligations.PopCompletes : Prop :=
  ∀ (rd : Reg) (s : State), rd.val < 14 → rd ≠ 12 → s.readable (s.slotAbove 0) = true →
    ((s.slotAbove 0).toNat = (match s.params.stack with
      | .writeThenDecrement => ((s.readReg 12).toNat + 1) % 65536
      | .decrementThenWrite => (s.readReg 12).toNat)) ∧
    ∃ t, exec (.pop rd) s = .next t ∧ t.pc = s.pc + 1 ∧
      Wrote rd (s.valueAt (s.slotAbove 0)) s t ∧ t.readReg 12 = s.readReg 12 + 1 ∧
      Frame [rd, 12] [] s t ∧
      t.events = (s.afterRead (s.slotAbove 0)).events ∧ t.draws = (s.afterRead (s.slotAbove 0)).draws ∧
      (∀ p, encode p (.pop rd) = [firstWord 0xC2 0 (numberField rd)])

/-- push then pop of the same register, R13 among them, brings everything back but the program counter and the stack word:
the register reads as before, so do R00 to R12 and the stack pointer, and every stored bit of R13 is as before (for R13
itself: the flags that software writes come back, and I2, I1, I0 stay), whatever the stack discipline and wherever the
stack pointer stands (43 R190, R191, 10 R26, R34; decisions D5, D8, D9, log entries 4, 32, 34). -/
def Obligations.PushThenPop : Prop :=
  ∀ (r : Reg) (s : State), r.val < 14 → r ≠ 12 → s.ramAt (s.slotBelow 0) = true →
    ∃ t u, exec (.push r) s = .next t ∧ exec (.pop r) t = .next u ∧
      u.readReg r = s.readReg r ∧ u.readReg 12 = s.readReg 12 ∧ SameRegsBut [] s u ∧ u.flags = s.flags ∧
      (∀ f : Flag, u.flag f = s.flag f) ∧ u.pc = s.pc + 2 ∧ SameMemoryBut [s.slotBelow 0] s u ∧
      Untouched s u ∧ SameBus s u

/-- sb and rb: the selected bit becomes 1, or 0, every other bit of the register stays; no flag changes but the one
addressed in R13, and I2, I1, I0 never (43 R193, R194, 30 R86; decisions D2, D5, D24, log entries 3, 31, 32). The first words
are those of 30 R100. Constructors: sb, rb. -/
def Obligations.BitWritesComplete : Prop :=
  ∀ (rd : Reg) (f : BitIndex) (s : State) (p : Nat), rd.val < 14 →
    p = (match s.params.bitSelect with | .weight => f.val | .figure => 15 - f.val) →
    (∃ t v, exec (.sb rd f) s = .next t ∧ t.pc = s.pc + 1 ∧ Wrote rd v s t ∧
      (∀ k : Fin 16, v.getLsbD k.val = if k.val = p then true else (s.readReg rd).getLsbD k.val) ∧
      Frame [rd] [] s t ∧ SameBus s t) ∧
    (∃ t v, exec (.rb rd f) s = .next t ∧ t.pc = s.pc + 1 ∧ Wrote rd v s t ∧
      (∀ k : Fin 16, v.getLsbD k.val = if k.val = p then false else (s.readReg rd).getLsbD k.val) ∧
      Frame [rd] [] s t ∧ SameBus s t) ∧
    (∀ q, encode q (.sb rd f) = [firstWord 0xC4 (numberField f) (numberField rd)] ∧
      encode q (.rb rd f) = [firstWord 0xC6 (numberField f) (numberField rd)])

/-- hlt: the word 0xFEFF; the program counter moves to the next instruction and the halted bit is set; nothing else
changes, in every state (43 R195; decision D37, log entry 28). The first words are those of 30 R100. Constructor: hlt. -/
def Obligations.HltCompletes : Prop :=
  (∀ s : State, exec .hlt s = .next { s with pc := s.pc + 1, halted := true }) ∧ (∀ p, encode p .hlt = [0xFEFF])

/-- nop: the word 0xFFFF, of length 1; it changes nothing but the program counter, in every state (43 R196).
Constructor: nop. -/
def Obligations.NopCompletes : Prop :=
  (∀ s : State, exec .nop s = .next { s with pc := s.pc + 1 }) ∧ (∀ p, encode p .nop = [0xFFFF]) ∧
    Instr.nop.length = 1

/-! ### The forms the spec refuses -/

/-- The forms of 30 R109 are refused in every state, each by its name: a register field of 14 or 15; push or pop of R12; a
flag-writing instruction with destination R13 (30 R109, 10 R27, 41 R131; decisions D11, D12, D13, log entries 11, 12,
13). -/
def Obligations.RefusedForms : Prop :=
  ∀ (i : Instr) (s : State),
    ((∃ r ∈ i.form.registers, 14 ≤ r.val) → exec i s = .refused .pcOperand) ∧
    (i = .push 12 ∨ i = .pop 12 → exec i s = .refused .stackPointerOperand) ∧
    ((∀ r ∈ i.form.registers, r.val < 14) →
      (∃ op o, i.form = .alu op 13 o) ∨
        (∃ op, op ∈ [.inc, .dec, .not, .lsl, .lsr] ∧ i.form = .unary op 13) ∨
        (∃ b g, i.form = .countBranch b 13 g) →
      exec i s = .refused .flagRegisterDestination)

/-- An instruction that is none of those forms is never refused but for a store to flash (30 R109, 20 R55; decision D40, log
entries 11, 12, 13, 15). -/
def Obligations.NothingElseRefused : Prop :=
  ∀ (i : Instr) (s : State) (r : Refusal), i.wf = true → exec i s = .refused r → ∃ a, r = .flashStore a

/-! ### The flag register and the interrupt FIFO -/

/-- R13: a read shows the code at the head of the FIFO in the positions of I2, I1, I0 (000 when it is empty) and the stored
bit elsewhere; a write sets every bit but those three and leaves the FIFO (10 R33, R34; decisions D5, D33, log
entries 24, 32). -/
def Obligations.FlagRegisterReadsAndWrites : Prop :=
  ∀ (s : State) (v : Word), s.params.wf = true →
    (s.flag .i2 = s.irqHead.testBit 2 ∧ s.flag .i1 = s.irqHead.testBit 1 ∧ s.flag .i0 = s.irqHead.testBit 0) ∧
    (s.irqHead = match s.irq with | [] => 0 | n :: _ => n.number) ∧
    (∀ b : Fin 16, b ≠ s.flagPos .i2 → b ≠ s.flagPos .i1 → b ≠ s.flagPos .i0 →
      (s.readReg 13).getLsbD b.val = s.flags.getLsbD b.val ∧
      ((s.writeReg 13 v).readReg 13).getLsbD b.val = v.getLsbD b.val) ∧
    (∀ b : Fin 16, b = s.flagPos .i2 ∨ b = s.flagPos .i1 ∨ b = s.flagPos .i0 →
      ((s.writeReg 13 v).readReg 13).getLsbD b.val = (s.readReg 13).getLsbD b.val) ∧
    (s.writeReg 13 v).irq = s.irq

/-- An arriving request is queued behind those waiting, or lost when four wait, and nothing else changes (60 R203, 10 R39;
decision D33, log entry 24). -/
def Obligations.ArrivalQueues : Prop :=
  ∀ (s : State) (n : IrqCode) (l : List Input) (later : List (List Input)),
    (s.irq.length < 4 → s.arrive n = { s with irq := s.irq ++ [n] }) ∧
    (4 ≤ s.irq.length → s.arrive n = s) ∧
    (s.inputs = (.irq n :: l) :: later →
      s.takeInputs = ({ s.arrive n with inputs := l :: later } : State).takeInputs)

/-- Taking an interrupt: the return address, R00 to R11 and F go to the next fifteen stack words; SP drops by fifteen; the
request leaves the FIFO; IE is cleared and no other flag; the halt ends; the program counter becomes the handler's address;
every other register and byte of memory stays (60 R205, R207, R208; decisions D33, D34, D35, log entries 25, 26). -/
def Obligations.InterruptEntry : Prop :=
  ∀ (s : State) (n : IrqCode) (l : List IrqCode) (w0 w1 : Word),
    s.params.wf = true → s.inputs = [] → s.resetAsserted = false → s.flag .ie = true → s.irq = n :: l →
    s.vectorIs n.number w0 w1 → s.frameFits n.number →
    ∃ t, step s = .next t ∧
      (∀ k < 15, t.mem.readWord (s.slotBelow k) = s.frameWords[k]?) ∧
      s.frameWords.length = 15 ∧
      SameMemoryBut ((List.range 15).map s.slotBelow) s t ∧
      t.readReg 12 = s.readReg 12 - 15 ∧ SameRegsBut [12] s t ∧
      t.irq = l ∧ t.halted = false ∧ t.flag .ie = false ∧ SameFlagsBut [.ie] s t ∧
      t.pc = pairAddr s.params.vectorOrder w0 w1 ∧
      t.pchHigh = s.pchHigh ∧ t.resetAsserted = false ∧ t.inputs = [] ∧ t.params = s.params ∧ SameBus s t

/-- An interrupt is invisible to the interrupted program: after an entry, from any state of a handler whose stack pointer and
frame are as entry left them and whose FIFO is empty, reti brings back R00 to R12, every flag that software writes, and the
program counter, whatever the handler did and whatever the parameters (60 R207 to R209, 42 R177; decisions D35, D36, log
entries 26, 27). -/
def Obligations.EntryThenRetiRestores : Prop :=
  ∀ (s t u : State) (n : IrqCode) (l : List IrqCode) (w0 w1 : Word),
    s.params.wf = true → s.inputs = [] → s.resetAsserted = false → s.flag .ie = true → s.irq = n :: l →
    s.vectorIs n.number w0 w1 → s.frameFits n.number → step s = .next t →
    u.params = t.params → u.irq = [] → u.readReg 12 = t.readReg 12 →
    (∀ k < 15, u.mem.readWord (s.slotBelow k) = t.mem.readWord (s.slotBelow k)) →
    ∃ v, exec .reti u = .next v ∧ v.pc = s.pc ∧
      (∀ r : Reg, r.val < 13 → v.readReg r = s.readReg r) ∧
      (∀ f : Flag, f.writable = true → v.flag f = s.flag f)

/-! ### Reset -/

/-- The reset sequence: the FIFO empty, IE = 0, not halted, the program counter from vector 0 in either word order, the
unused byte ignored, memory unchanged; with no value in either word of vector 0 there is no successor (70 R230, R233,
10 R42; decisions D34, D38, log entries 5, 21). Nothing is said of the registers, to which the spec gives no value. -/
def Obligations.ResetSequence : Prop :=
  ∀ (s : State), s.takeInputs.resetAsserted = true →
    (∀ w0 w1, s.vectorIs 0 w0 w1 →
      ∃ t, step s = .next t ∧ t.irq = [] ∧ t.flag .ie = false ∧
        t.flag .i2 = false ∧ t.flag .i1 = false ∧ t.flag .i0 = false ∧ t.halted = false ∧
        t.pc = pairAddr s.params.vectorOrder w0 w1 ∧
        t.pc.toNat = (match s.params.vectorOrder with
          | .highFirst => w0.toNat % 256 * 65536 + w1.toNat
          | .lowFirst => w1.toNat % 256 * 65536 + w0.toNat) ∧
        t.mem = s.mem ∧ t.params = s.params ∧ t.resetAsserted = false ∧ t.inputs = s.takeInputs.inputs ∧
        SameBus s t) ∧
    (s.ramAt 0 = true → s.mem.readWord 0 = none → step s = .fault (.unwritten 0)) ∧
    (∀ w0, s.holds 0 w0 = true → s.ramAt 1 = true → s.mem.readWord 1 = none → step s = .fault (.unwritten 1))

/-- The state at reset: reset asserted, so that the first step performs the reset sequence; interrupts disabled and none
pending, not halted, no memory word with a value (10 R42, 20 R55, 70 R230, R232; decisions D38, D45, log entries 17,
20). -/
def Obligations.ResetStateAsSpec : Prop :=
  State.reset.resetAsserted = true ∧ State.reset.flag .ie = false ∧ State.reset.irq = [] ∧
    State.reset.halted = false ∧ (∀ a : Addr, State.reset.mem.readWord a = none) ∧ State.reset.events = []

/-! ### Whole-machine invariants and frames -/

/-- Every step keeps the invariant: memory in canonical form (rising addresses, inside the address space, words whole), at
most four requests in the FIFO, and FLAG_BIT injective, which the statements about flag values have as a premise; whatever
the step is: an instruction, an interrupt entry, a reset, a halted step, with any inputs (10 R30, R39, 20 R50, R57, R60,
60 R203; decisions D3, D33, log entries 1, 2, 18, 24). -/
def Obligations.StepKeepsInvariant : Prop :=
  ∀ s t : State, s.Inv → step s = .next t → t.Inv

/-- The reset state meets the invariant (10 R30, R39, R42, 20 R50; log entries 1, 2, 18). -/
def Obligations.ResetMeetsInvariant : Prop := State.reset.Inv

/-- Every instruction leaves every register of R00 to R12 but those it names as destinations and the stack pointer where it
moves it: no hidden register write (10 R22, R23, R46, 30 R89). -/
def Obligations.RegisterFrame : Prop :=
  ∀ (i : Instr) (s t : State), exec i s = .next t → SameRegsBut (writtenRegs i.form) s t

/-- Every instruction but reti that does not name R13 as its destination changes no bit of R13 but those of the flags its
"Affected Flags" line lists; unnamed bits and EQ among the rest (10 R31, R32, R37, R38; decisions D6, D24, D29, log
entries 31, 32). -/
def Obligations.FlagFrame : Prop :=
  ∀ (i : Instr) (s t : State), exec i s = .next t → 13 ∉ writtenRegs i.form →
    SameFlagsBut (affectedFlags i.form) s t

/-- Every instruction leaves every byte of memory but those of the words it stores to: the effective address of st, the
slots of push and jms; every other instruction stores nothing (20 R57, R61, 42 R175). -/
def Obligations.MemoryFrame : Prop :=
  ∀ (i : Instr) (s t : State), exec i s = .next t → SameMemoryBut (storedAddrs s i.form) s t

/-- No instruction changes the parameters, the inputs, the reset line, the unused byte of R15 or the stored bits in the
positions of I2, I1, I0; only reti takes a request from the FIFO and none adds one; only hlt halts and none ends a halt
(10 R33, R34, R39, R40, R45, 60 R213; decisions D5, D33, D37, log entries 24, 28, 32). -/
def Obligations.ControlFrame : Prop :=
  ∀ (i : Instr) (s t : State), exec i s = .next t →
    t.params = s.params ∧ t.inputs = s.inputs ∧ t.resetAsserted = s.resetAsserted ∧ t.pchHigh = s.pchHigh ∧
    (∀ b : Fin 16, b = s.flagPos .i2 ∨ b = s.flagPos .i1 ∨ b = s.flagPos .i0 →
      t.flags.getLsbD b.val = s.flags.getLsbD b.val) ∧
    t.irq = (if i = .reti then s.irq.tail else s.irq) ∧
    t.halted = (s.halted || decide (i = .hlt))

/-! ### The tables of the encoding -/

/-- The mode codes, the opcode switch and the branch target bit, as the tables print them (30 R82, R83, R87, R96; 0110 for
Indexed (Y) is the spec's decision D18, log entry 40): ld decodes in each of the eight modes from its code and the
extension words of the mode, and the terms `code`, `ext`, `os`, `nibble` and `brt`, in which the other statements write
first words and extension words, have these values. -/
def Obligations.ModeCodes : Prop :=
  ∀ (p : Params) (rd r : Reg) (v : Word) (a : Addr) (src : Source) (rest : List Word),
    (decode p (firstWord 0x03 0b0001 (numberField rd) :: v :: rest) = .ok (.ldImmediate rd v, rest) ∧
      decode p (firstWord 0x03 0b0010 (numberField rd) :: v :: rest) = .ok (.ldDirect rd v, rest) ∧
      decode p (firstWord 0x03 0b0011 (numberField rd) :: addrWords p.instrOrder a ++ rest) =
        .ok (.ldAbsolute rd a, rest) ∧
      decode p (firstWord 0x03 0b0100 (numberField rd) :: v :: rest) = .ok (.ldRelative rd v, rest) ∧
      decode p (firstWord 0x03 0b0101 (numberField rd) :: rest) = .ok (.ldIndirectY rd, rest) ∧
      decode p (firstWord 0x03 0b0110 (numberField rd) :: v :: rest) = .ok (.ldIndexedY rd v, rest) ∧
      decode p (firstWord 0x03 0b1101 (numberField rd) :: rest) = .ok (.ldIndirectZ rd, rest) ∧
      decode p (firstWord 0x03 0b1110 (numberField rd) :: v :: rest) = .ok (.ldIndexedZ rd v, rest)) ∧
    ((Source.immediate v).code = 0b0001 ∧
      (Source.memory (.direct v)).code = 0b0010 ∧ (Place.direct v).code = 0b0010 ∧
      (Source.memory (.absolute a)).code = 0b0011 ∧ (Place.absolute a).code = 0b0011 ∧
      (Source.memory (.relative v)).code = 0b0100 ∧ (Place.relative v).code = 0b0100 ∧
      (Source.memory .indirectY).code = 0b0101 ∧ Place.indirectY.code = 0b0101 ∧
      (Source.memory (.indexedY v)).code = 0b0110 ∧ (Place.indexedY v).code = 0b0110 ∧
      (Source.memory .indirectZ).code = 0b1101 ∧ Place.indirectZ.code = 0b1101 ∧
      (Source.memory (.indexedZ v)).code = 0b1110 ∧ (Place.indexedZ v).code = 0b1110) ∧
    ((Source.immediate v).ext p = [v] ∧ (Place.direct v).ext p = [v] ∧
      (Place.absolute a).ext p = addrWords p.instrOrder a ∧ (Place.relative v).ext p = [v] ∧
      Place.indirectY.ext p = [] ∧ (Place.indexedY v).ext p = [v] ∧ Place.indirectZ.ext p = [] ∧
      (Place.indexedZ v).ext p = [v] ∧ (Target.relative v).ext p = [v] ∧
      (Target.absolute a).ext p = addrWords p.instrOrder a) ∧
    ((Operand.register r).os = 0 ∧ (Operand.source src).os = 1 ∧
      (Operand.register r).nibble = numberField r ∧ (Operand.source src).nibble = src.code ∧
      (Target.relative v).brt = 0 ∧ (Target.absolute a).brt = 2)
end

