-- ==== Sys2Proof/Laws/Encoding.lean ====
section
/-! SUPPORT. The fields of a first word and the two-word form of an address, as numbers. -/

namespace Sys2Proof

open Sys2Proof.Machine

/-! ### The fields of a first word (spec/30_encoding.md R81, R84) -/

theorem firstWord_toNat (u : Byte) (hi lo : BitVec 4) :
    (firstWord u hi lo).toNat = u.toNat * 256 + hi.toNat * 16 + lo.toNat := by
  have h1 := lo.isLt
  have h2 := hi.isLt
  unfold firstWord
  rw [BitVec.toNat_append, ← Nat.shiftLeft_add_eq_or_of_lt h1, BitVec.toNat_append,
    ← Nat.shiftLeft_add_eq_or_of_lt h2]
  simp only [Nat.shiftLeft_eq]
  omega

theorem upperByte_toNat (w : Word) : (upperByte w).toNat = w.toNat / 256 := by
  have := w.isLt
  simp [upperByte, BitVec.extractLsb'_toNat, Nat.shiftRight_eq_div_pow]
  omega

theorem highNibble_toNat (w : Word) : (highNibble w).toNat = w.toNat / 16 % 16 := by
  simp [highNibble, BitVec.extractLsb'_toNat, Nat.shiftRight_eq_div_pow]

theorem lowNibble_toNat (w : Word) : (lowNibble w).toNat = w.toNat % 16 := by
  simp [lowNibble, BitVec.extractLsb'_toNat]

theorem controlCode_toNat (w : Word) : (w.extractLsb' 0 8).toNat = w.toNat % 256 := by
  simp [BitVec.extractLsb'_toNat]

theorem upperByte_firstWord (u : Byte) (hi lo : BitVec 4) : upperByte (firstWord u hi lo) = u := by
  apply BitVec.eq_of_toNat_eq
  rw [upperByte_toNat, firstWord_toNat]
  omega

theorem highNibble_firstWord (u : Byte) (hi lo : BitVec 4) : highNibble (firstWord u hi lo) = hi := by
  apply BitVec.eq_of_toNat_eq
  rw [highNibble_toNat, firstWord_toNat]
  omega

theorem lowNibble_firstWord (u : Byte) (hi lo : BitVec 4) : lowNibble (firstWord u hi lo) = lo := by
  apply BitVec.eq_of_toNat_eq
  rw [lowNibble_toNat, firstWord_toNat]
  omega

/-- A first word is its three fields. -/
theorem firstWord_fields (w : Word) : w = firstWord (upperByte w) (highNibble w) (lowNibble w) := by
  apply BitVec.eq_of_toNat_eq
  rw [firstWord_toNat, upperByte_toNat, highNibble_toNat, lowNibble_toNat]
  omega

theorem fieldNumber_numberField (r : Fin 16) : fieldNumber (numberField r) = r := rfl

theorem numberField_fieldNumber (v : BitVec 4) : numberField (fieldNumber v) = v := rfl

/-! ### Addresses as two words (30 R92, spec/20_memory.md R58) -/

theorem joinAddr_toNat (hi lo : Word) : (joinAddr hi lo).toNat = hi.toNat % 256 * 65536 + lo.toNat := by
  have h1 := lo.isLt
  unfold joinAddr
  rw [BitVec.toNat_append, ← Nat.shiftLeft_add_eq_or_of_lt h1]
  simp [Nat.shiftLeft_eq, BitVec.extractLsb'_toNat]

theorem highPart_toNat (a : Addr) : (highPart a).toNat = a.toNat / 65536 := by
  have := a.isLt
  simp [highPart, BitVec.extractLsb'_toNat, Nat.shiftRight_eq_div_pow]
  omega

theorem lowPart_toNat (a : Addr) : (lowPart a).toNat = a.toNat % 65536 := by
  simp [lowPart, BitVec.extractLsb'_toNat]

/-- Two words of an address, read in the order they were written in, are the address. -/
theorem pairAddr_addrWords (o : AddrOrder) (a : Addr) {w0 w1 : Word} (h : addrWords o a = [w0, w1]) :
    pairAddr o w0 w1 = a := by
  have := a.isLt
  apply BitVec.eq_of_toNat_eq
  cases o <;> simp only [addrWords, List.cons.injEq, and_true] at h <;> obtain ⟨rfl, rfl⟩ := h <;>
    simp only [pairAddr, joinAddr_toNat, highPart_toNat, lowPart_toNat] <;> omega

/-- The unused byte of a two-word address, as a number (30 R108). -/
theorem pairJunk_toNat (o : AddrOrder) (w0 w1 : Word) :
    (pairJunk o w0 w1).toNat = (match o with | .highFirst => w0.toNat | .lowFirst => w1.toNat) / 256 := by
  have := w0.isLt
  have := w1.isLt
  cases o <;> simp [pairJunk, BitVec.extractLsb'_toNat, Nat.shiftRight_eq_div_pow] <;> omega

/-- What two words of an address with `j` in the unused byte are read as: the address where `j` is zero or is not looked at
(30 R92, R108). -/
theorem takeAddr_addrWordsWith (p : Params) (j : Byte) (a : Addr) (r : List Word) :
    takeAddr p (addrWordsWith p.instrOrder j a ++ r) =
      if p.strictDecode = true ∧ j ≠ 0 then .error .addressJunk else .ok (a, r) := by
  have hs := (Machine.segment a).isLt
  have hw : (j ++ Machine.segment a : Word).toNat = j.toNat * 256 + (Machine.segment a).toNat := by
    rw [BitVec.toNat_append, ← Nat.shiftLeft_add_eq_or_of_lt hs, Nat.shiftLeft_eq]
  have hj : (j ++ Machine.segment a : Word).extractLsb' 8 8 = j := by
    apply BitVec.eq_of_toNat_eq
    have := j.isLt
    simp [BitVec.extractLsb'_toNat, Nat.shiftRight_eq_div_pow, hw]
    omega
  have ha : joinAddr (j ++ Machine.segment a) (lowPart a) = a := by
    apply BitVec.eq_of_toNat_eq
    have := a.isLt
    have : (Machine.segment a).toNat = a.toNat / 65536 := by
      simp [Machine.segment, BitVec.extractLsb'_toNat, Nat.shiftRight_eq_div_pow]
      omega
    rw [joinAddr_toNat, hw, lowPart_toNat]
    omega
  cases h : p.instrOrder <;> simp [takeAddr, addrWordsWith, h, pairJunk, pairAddr, hj, ha]

/-- With zero in the unused byte the words are those the encoder writes. -/
theorem addrWordsWith_zero (o : AddrOrder) (a : Addr) : addrWordsWith o 0#8 a = addrWords o a := by
  have h : (0#8 ++ Machine.segment a : Word) = highPart a := by
    apply BitVec.eq_of_toNat_eq
    have := a.isLt
    rw [BitVec.toNat_append, highPart_toNat]
    simp [Machine.segment, BitVec.extractLsb'_toNat, Nat.shiftRight_eq_div_pow]
    omega
  cases o <;> simp [addrWordsWith, addrWords, h]

theorem placeWith_zero (p : Params) (q : Place) : placeWith p 0#8 q = q.ext p := by
  cases q <;> simp [placeWith, Place.ext, addrWordsWith_zero]

theorem operandWith_zero (p : Params) (o : Operand) : operandWith p 0#8 o = o.ext p := by
  cases o with
  | register r => rfl
  | source o => cases o <;> simp [operandWith, placeWith_zero, Operand.ext, Source.ext]

theorem targetWith_zero (p : Params) (t : Target) : targetWith p 0#8 t = t.ext p := by
  cases t <;> simp [targetWith, Target.ext, addrWordsWith_zero]

/-- With zero in every unused byte the words are those of `encode`. -/
theorem extWith_zero (p : Params) (f : Form) : extWith p 0#8 0#8 f = f.ext p := by
  cases f <;> simp [extWith, Form.ext, placeWith_zero, operandWith_zero, targetWith_zero] <;> rfl

/-- An address offset by a signed word, as numbers (30 R93, R97). -/
theorem add_sext24_toNat (a : Addr) (off : Word) :
    ((a + sext24 off).toNat : Int) = ((a.toNat : Int) + off.toInt) % 2 ^ 24 := by
  have h : ((sext24 off).toNat : Int) % 2 ^ 24 = off.toInt % 2 ^ 24 := by
    have e : (sext24 off).toInt = off.toInt := by simp [sext24, BitVec.toInt_signExtend_of_le]
    rw [← e, BitVec.toInt_eq_toNat_bmod]
    exact (Int.bmod_emod (m := 2 ^ 24)).symm
  rw [BitVec.toNat_add, Int.natCast_emod, Int.natCast_add, Int.add_emod]
  norm_num at h ⊢
  omega

end Sys2Proof
end

