-- ==== Sys2Proof/Laws/State.lean ====
section
/-! SUPPORT. For every update of the state, what it leaves as it was, one lemma per field, tagged @[simp]: no later proof
unfolds a record update. -/

namespace Sys2Proof.Machine

/-! writeFlags -/

@[simp] theorem State.writeFlags_regs (v : Word) (s : State) : (s.writeFlags v).regs = s.regs := rfl
@[simp] theorem State.writeFlags_pc (v : Word) (s : State) : (s.writeFlags v).pc = s.pc := rfl
@[simp] theorem State.writeFlags_pchHigh (v : Word) (s : State) : (s.writeFlags v).pchHigh = s.pchHigh := rfl
@[simp] theorem State.writeFlags_irq (v : Word) (s : State) : (s.writeFlags v).irq = s.irq := rfl
@[simp] theorem State.writeFlags_halted (v : Word) (s : State) : (s.writeFlags v).halted = s.halted := rfl
@[simp] theorem State.writeFlags_resetAsserted (v : Word) (s : State) : (s.writeFlags v).resetAsserted = s.resetAsserted := rfl
@[simp] theorem State.writeFlags_mem (v : Word) (s : State) : (s.writeFlags v).mem = s.mem := rfl
@[simp] theorem State.writeFlags_events (v : Word) (s : State) : (s.writeFlags v).events = s.events := rfl
@[simp] theorem State.writeFlags_inputs (v : Word) (s : State) : (s.writeFlags v).inputs = s.inputs := rfl
@[simp] theorem State.writeFlags_draws (v : Word) (s : State) : (s.writeFlags v).draws = s.draws := rfl
@[simp] theorem State.writeFlags_params (v : Word) (s : State) : (s.writeFlags v).params = s.params := rfl

/-! setFlag -/

@[simp] theorem State.setFlag_regs (f : Flag) (b : Bool) (s : State) : (s.setFlag f b).regs = s.regs := rfl
@[simp] theorem State.setFlag_pc (f : Flag) (b : Bool) (s : State) : (s.setFlag f b).pc = s.pc := rfl
@[simp] theorem State.setFlag_pchHigh (f : Flag) (b : Bool) (s : State) : (s.setFlag f b).pchHigh = s.pchHigh := rfl
@[simp] theorem State.setFlag_irq (f : Flag) (b : Bool) (s : State) : (s.setFlag f b).irq = s.irq := rfl
@[simp] theorem State.setFlag_halted (f : Flag) (b : Bool) (s : State) : (s.setFlag f b).halted = s.halted := rfl
@[simp] theorem State.setFlag_resetAsserted (f : Flag) (b : Bool) (s : State) : (s.setFlag f b).resetAsserted = s.resetAsserted := rfl
@[simp] theorem State.setFlag_mem (f : Flag) (b : Bool) (s : State) : (s.setFlag f b).mem = s.mem := rfl
@[simp] theorem State.setFlag_events (f : Flag) (b : Bool) (s : State) : (s.setFlag f b).events = s.events := rfl
@[simp] theorem State.setFlag_inputs (f : Flag) (b : Bool) (s : State) : (s.setFlag f b).inputs = s.inputs := rfl
@[simp] theorem State.setFlag_draws (f : Flag) (b : Bool) (s : State) : (s.setFlag f b).draws = s.draws := rfl
@[simp] theorem State.setFlag_params (f : Flag) (b : Bool) (s : State) : (s.setFlag f b).params = s.params := rfl

/-! setFlags -/

@[simp] theorem State.setFlags_nil (s : State) : s.setFlags [] = s := rfl
@[simp] theorem State.setFlags_cons (f : Flag) (b : Bool) (l : List (Flag × Bool)) (s : State) :
    s.setFlags ((f, b) :: l) = (s.setFlag f b).setFlags l := rfl
@[simp] theorem State.setFlags_regs (l : List (Flag × Bool)) (s : State) : (s.setFlags l).regs = s.regs := by
  induction l generalizing s with
  | nil => rfl
  | cons x l ih => exact ih (s.setFlag x.1 x.2)
@[simp] theorem State.setFlags_pc (l : List (Flag × Bool)) (s : State) : (s.setFlags l).pc = s.pc := by
  induction l generalizing s with
  | nil => rfl
  | cons x l ih => exact ih (s.setFlag x.1 x.2)
@[simp] theorem State.setFlags_pchHigh (l : List (Flag × Bool)) (s : State) : (s.setFlags l).pchHigh = s.pchHigh := by
  induction l generalizing s with
  | nil => rfl
  | cons x l ih => exact ih (s.setFlag x.1 x.2)
@[simp] theorem State.setFlags_irq (l : List (Flag × Bool)) (s : State) : (s.setFlags l).irq = s.irq := by
  induction l generalizing s with
  | nil => rfl
  | cons x l ih => exact ih (s.setFlag x.1 x.2)
@[simp] theorem State.setFlags_halted (l : List (Flag × Bool)) (s : State) : (s.setFlags l).halted = s.halted := by
  induction l generalizing s with
  | nil => rfl
  | cons x l ih => exact ih (s.setFlag x.1 x.2)
@[simp] theorem State.setFlags_resetAsserted (l : List (Flag × Bool)) (s : State) : (s.setFlags l).resetAsserted = s.resetAsserted := by
  induction l generalizing s with
  | nil => rfl
  | cons x l ih => exact ih (s.setFlag x.1 x.2)
@[simp] theorem State.setFlags_mem (l : List (Flag × Bool)) (s : State) : (s.setFlags l).mem = s.mem := by
  induction l generalizing s with
  | nil => rfl
  | cons x l ih => exact ih (s.setFlag x.1 x.2)
@[simp] theorem State.setFlags_events (l : List (Flag × Bool)) (s : State) : (s.setFlags l).events = s.events := by
  induction l generalizing s with
  | nil => rfl
  | cons x l ih => exact ih (s.setFlag x.1 x.2)
@[simp] theorem State.setFlags_inputs (l : List (Flag × Bool)) (s : State) : (s.setFlags l).inputs = s.inputs := by
  induction l generalizing s with
  | nil => rfl
  | cons x l ih => exact ih (s.setFlag x.1 x.2)
@[simp] theorem State.setFlags_draws (l : List (Flag × Bool)) (s : State) : (s.setFlags l).draws = s.draws := by
  induction l generalizing s with
  | nil => rfl
  | cons x l ih => exact ih (s.setFlag x.1 x.2)
@[simp] theorem State.setFlags_params (l : List (Flag × Bool)) (s : State) : (s.setFlags l).params = s.params := by
  induction l generalizing s with
  | nil => rfl
  | cons x l ih => exact ih (s.setFlag x.1 x.2)

/-! setSp -/

@[simp] theorem State.setSp_regs (v : Word) (s : State) : (s.setSp v).regs = s.regs.set 12 v := rfl
@[simp] theorem State.setSp_flags (v : Word) (s : State) : (s.setSp v).flags = s.flags := rfl
@[simp] theorem State.setSp_pc (v : Word) (s : State) : (s.setSp v).pc = s.pc := rfl
@[simp] theorem State.setSp_pchHigh (v : Word) (s : State) : (s.setSp v).pchHigh = s.pchHigh := rfl
@[simp] theorem State.setSp_irq (v : Word) (s : State) : (s.setSp v).irq = s.irq := rfl
@[simp] theorem State.setSp_halted (v : Word) (s : State) : (s.setSp v).halted = s.halted := rfl
@[simp] theorem State.setSp_resetAsserted (v : Word) (s : State) : (s.setSp v).resetAsserted = s.resetAsserted := rfl
@[simp] theorem State.setSp_mem (v : Word) (s : State) : (s.setSp v).mem = s.mem := rfl
@[simp] theorem State.setSp_events (v : Word) (s : State) : (s.setSp v).events = s.events := rfl
@[simp] theorem State.setSp_inputs (v : Word) (s : State) : (s.setSp v).inputs = s.inputs := rfl
@[simp] theorem State.setSp_draws (v : Word) (s : State) : (s.setSp v).draws = s.draws := rfl
@[simp] theorem State.setSp_params (v : Word) (s : State) : (s.setSp v).params = s.params := rfl

/-! setPc -/

@[simp] theorem State.setPc_regs (a : Addr) (s : State) : (s.setPc a).regs = s.regs := rfl
@[simp] theorem State.setPc_flags (a : Addr) (s : State) : (s.setPc a).flags = s.flags := rfl
@[simp] theorem State.setPc_pc (a : Addr) (s : State) : (s.setPc a).pc = a := rfl
@[simp] theorem State.setPc_pchHigh (a : Addr) (s : State) : (s.setPc a).pchHigh = s.pchHigh := rfl
@[simp] theorem State.setPc_irq (a : Addr) (s : State) : (s.setPc a).irq = s.irq := rfl
@[simp] theorem State.setPc_halted (a : Addr) (s : State) : (s.setPc a).halted = s.halted := rfl
@[simp] theorem State.setPc_resetAsserted (a : Addr) (s : State) : (s.setPc a).resetAsserted = s.resetAsserted := rfl
@[simp] theorem State.setPc_mem (a : Addr) (s : State) : (s.setPc a).mem = s.mem := rfl
@[simp] theorem State.setPc_events (a : Addr) (s : State) : (s.setPc a).events = s.events := rfl
@[simp] theorem State.setPc_inputs (a : Addr) (s : State) : (s.setPc a).inputs = s.inputs := rfl
@[simp] theorem State.setPc_draws (a : Addr) (s : State) : (s.setPc a).draws = s.draws := rfl
@[simp] theorem State.setPc_params (a : Addr) (s : State) : (s.setPc a).params = s.params := rfl

/-! advance -/

@[simp] theorem State.advance_regs (l : Nat) (s : State) : (s.advance l).regs = s.regs := rfl
@[simp] theorem State.advance_flags (l : Nat) (s : State) : (s.advance l).flags = s.flags := rfl
@[simp] theorem State.advance_pc (l : Nat) (s : State) : (s.advance l).pc = s.pc + BitVec.ofNat 24 l := rfl
@[simp] theorem State.advance_pchHigh (l : Nat) (s : State) : (s.advance l).pchHigh = s.pchHigh := rfl
@[simp] theorem State.advance_irq (l : Nat) (s : State) : (s.advance l).irq = s.irq := rfl
@[simp] theorem State.advance_halted (l : Nat) (s : State) : (s.advance l).halted = s.halted := rfl
@[simp] theorem State.advance_resetAsserted (l : Nat) (s : State) : (s.advance l).resetAsserted = s.resetAsserted := rfl
@[simp] theorem State.advance_mem (l : Nat) (s : State) : (s.advance l).mem = s.mem := rfl
@[simp] theorem State.advance_events (l : Nat) (s : State) : (s.advance l).events = s.events := rfl
@[simp] theorem State.advance_inputs (l : Nat) (s : State) : (s.advance l).inputs = s.inputs := rfl
@[simp] theorem State.advance_draws (l : Nat) (s : State) : (s.advance l).draws = s.draws := rfl
@[simp] theorem State.advance_params (l : Nat) (s : State) : (s.advance l).params = s.params := rfl

/-! afterDeviceRead -/

@[simp] theorem State.afterDeviceRead_regs (a : Addr) (s : State) : (s.afterDeviceRead a).regs = s.regs := rfl
@[simp] theorem State.afterDeviceRead_flags (a : Addr) (s : State) : (s.afterDeviceRead a).flags = s.flags := rfl
@[simp] theorem State.afterDeviceRead_pc (a : Addr) (s : State) : (s.afterDeviceRead a).pc = s.pc := rfl
@[simp] theorem State.afterDeviceRead_pchHigh (a : Addr) (s : State) : (s.afterDeviceRead a).pchHigh = s.pchHigh := rfl
@[simp] theorem State.afterDeviceRead_irq (a : Addr) (s : State) : (s.afterDeviceRead a).irq = s.irq := rfl
@[simp] theorem State.afterDeviceRead_halted (a : Addr) (s : State) : (s.afterDeviceRead a).halted = s.halted := rfl
@[simp] theorem State.afterDeviceRead_resetAsserted (a : Addr) (s : State) : (s.afterDeviceRead a).resetAsserted = s.resetAsserted := rfl
@[simp] theorem State.afterDeviceRead_mem (a : Addr) (s : State) : (s.afterDeviceRead a).mem = s.mem := rfl
@[simp] theorem State.afterDeviceRead_events (a : Addr) (s : State) : (s.afterDeviceRead a).events = s.events ++ [.deviceRead a (Config.freeWord s.draws)] := rfl
@[simp] theorem State.afterDeviceRead_inputs (a : Addr) (s : State) : (s.afterDeviceRead a).inputs = s.inputs := rfl
@[simp] theorem State.afterDeviceRead_draws (a : Addr) (s : State) : (s.afterDeviceRead a).draws = s.draws + 1 := rfl
@[simp] theorem State.afterDeviceRead_params (a : Addr) (s : State) : (s.afterDeviceRead a).params = s.params := rfl

/-! dropRequest -/

@[simp] theorem State.dropRequest_regs (s : State) : (s.dropRequest).regs = s.regs := rfl
@[simp] theorem State.dropRequest_flags (s : State) : (s.dropRequest).flags = s.flags := rfl
@[simp] theorem State.dropRequest_pc (s : State) : (s.dropRequest).pc = s.pc := rfl
@[simp] theorem State.dropRequest_pchHigh (s : State) : (s.dropRequest).pchHigh = s.pchHigh := rfl
@[simp] theorem State.dropRequest_irq (s : State) : (s.dropRequest).irq = s.irq.tail := rfl
@[simp] theorem State.dropRequest_halted (s : State) : (s.dropRequest).halted = s.halted := rfl
@[simp] theorem State.dropRequest_resetAsserted (s : State) : (s.dropRequest).resetAsserted = s.resetAsserted := rfl
@[simp] theorem State.dropRequest_mem (s : State) : (s.dropRequest).mem = s.mem := rfl
@[simp] theorem State.dropRequest_events (s : State) : (s.dropRequest).events = s.events := rfl
@[simp] theorem State.dropRequest_inputs (s : State) : (s.dropRequest).inputs = s.inputs := rfl
@[simp] theorem State.dropRequest_draws (s : State) : (s.dropRequest).draws = s.draws := rfl
@[simp] theorem State.dropRequest_params (s : State) : (s.dropRequest).params = s.params := rfl

/-! afterRead -/

@[simp] theorem State.afterRead_regs (a : Addr) (s : State) : (s.afterRead a).regs = s.regs := by unfold State.afterRead; split <;> rfl
@[simp] theorem State.afterRead_flags (a : Addr) (s : State) : (s.afterRead a).flags = s.flags := by unfold State.afterRead; split <;> rfl
@[simp] theorem State.afterRead_pc (a : Addr) (s : State) : (s.afterRead a).pc = s.pc := by unfold State.afterRead; split <;> rfl
@[simp] theorem State.afterRead_pchHigh (a : Addr) (s : State) : (s.afterRead a).pchHigh = s.pchHigh := by unfold State.afterRead; split <;> rfl
@[simp] theorem State.afterRead_irq (a : Addr) (s : State) : (s.afterRead a).irq = s.irq := by unfold State.afterRead; split <;> rfl
@[simp] theorem State.afterRead_halted (a : Addr) (s : State) : (s.afterRead a).halted = s.halted := by unfold State.afterRead; split <;> rfl
@[simp] theorem State.afterRead_resetAsserted (a : Addr) (s : State) : (s.afterRead a).resetAsserted = s.resetAsserted := by unfold State.afterRead; split <;> rfl
@[simp] theorem State.afterRead_mem (a : Addr) (s : State) : (s.afterRead a).mem = s.mem := by unfold State.afterRead; split <;> rfl
@[simp] theorem State.afterRead_inputs (a : Addr) (s : State) : (s.afterRead a).inputs = s.inputs := by unfold State.afterRead; split <;> rfl
@[simp] theorem State.afterRead_params (a : Addr) (s : State) : (s.afterRead a).params = s.params := by unfold State.afterRead; split <;> rfl

/-! afterOperand -/

@[simp] theorem State.afterOperand_regs (o : Operand) (s : State) : (s.afterOperand o).regs = s.regs := by unfold State.afterOperand; split <;> simp
@[simp] theorem State.afterOperand_flags (o : Operand) (s : State) : (s.afterOperand o).flags = s.flags := by unfold State.afterOperand; split <;> simp
@[simp] theorem State.afterOperand_pc (o : Operand) (s : State) : (s.afterOperand o).pc = s.pc := by unfold State.afterOperand; split <;> simp
@[simp] theorem State.afterOperand_pchHigh (o : Operand) (s : State) : (s.afterOperand o).pchHigh = s.pchHigh := by unfold State.afterOperand; split <;> simp
@[simp] theorem State.afterOperand_irq (o : Operand) (s : State) : (s.afterOperand o).irq = s.irq := by unfold State.afterOperand; split <;> simp
@[simp] theorem State.afterOperand_halted (o : Operand) (s : State) : (s.afterOperand o).halted = s.halted := by unfold State.afterOperand; split <;> simp
@[simp] theorem State.afterOperand_resetAsserted (o : Operand) (s : State) : (s.afterOperand o).resetAsserted = s.resetAsserted := by unfold State.afterOperand; split <;> simp
@[simp] theorem State.afterOperand_mem (o : Operand) (s : State) : (s.afterOperand o).mem = s.mem := by unfold State.afterOperand; split <;> simp
@[simp] theorem State.afterOperand_inputs (o : Operand) (s : State) : (s.afterOperand o).inputs = s.inputs := by unfold State.afterOperand; split <;> simp
@[simp] theorem State.afterOperand_params (o : Operand) (s : State) : (s.afterOperand o).params = s.params := by unfold State.afterOperand; split <;> simp

/-! drawCountFlags -/

@[simp] theorem State.drawCountFlags_regs (s : State) : (s.drawCountFlags).regs = s.regs := by simp [State.drawCountFlags]
@[simp] theorem State.drawCountFlags_pc (s : State) : (s.drawCountFlags).pc = s.pc := by simp [State.drawCountFlags]
@[simp] theorem State.drawCountFlags_pchHigh (s : State) : (s.drawCountFlags).pchHigh = s.pchHigh := by simp [State.drawCountFlags]
@[simp] theorem State.drawCountFlags_irq (s : State) : (s.drawCountFlags).irq = s.irq := by simp [State.drawCountFlags]
@[simp] theorem State.drawCountFlags_halted (s : State) : (s.drawCountFlags).halted = s.halted := by simp [State.drawCountFlags]
@[simp] theorem State.drawCountFlags_resetAsserted (s : State) : (s.drawCountFlags).resetAsserted = s.resetAsserted := by simp [State.drawCountFlags]
@[simp] theorem State.drawCountFlags_mem (s : State) : (s.drawCountFlags).mem = s.mem := by simp [State.drawCountFlags]
@[simp] theorem State.drawCountFlags_events (s : State) : (s.drawCountFlags).events = s.events := by simp [State.drawCountFlags]
@[simp] theorem State.drawCountFlags_inputs (s : State) : (s.drawCountFlags).inputs = s.inputs := by simp [State.drawCountFlags]
@[simp] theorem State.drawCountFlags_draws (s : State) : (s.drawCountFlags).draws = s.draws + 3 := rfl
@[simp] theorem State.drawCountFlags_params (s : State) : (s.drawCountFlags).params = s.params := by simp [State.drawCountFlags]

/-! branch -/

@[simp] theorem State.branch_regs (s u : State) (b : Bool) (g : Target) (l : Nat) : (s.branch b g l u).regs = u.regs := by cases b <;> rfl
@[simp] theorem State.branch_flags (s u : State) (b : Bool) (g : Target) (l : Nat) : (s.branch b g l u).flags = u.flags := by cases b <;> rfl
@[simp] theorem State.branch_pchHigh (s u : State) (b : Bool) (g : Target) (l : Nat) : (s.branch b g l u).pchHigh = u.pchHigh := by cases b <;> rfl
@[simp] theorem State.branch_irq (s u : State) (b : Bool) (g : Target) (l : Nat) : (s.branch b g l u).irq = u.irq := by cases b <;> rfl
@[simp] theorem State.branch_halted (s u : State) (b : Bool) (g : Target) (l : Nat) : (s.branch b g l u).halted = u.halted := by cases b <;> rfl
@[simp] theorem State.branch_resetAsserted (s u : State) (b : Bool) (g : Target) (l : Nat) : (s.branch b g l u).resetAsserted = u.resetAsserted := by cases b <;> rfl
@[simp] theorem State.branch_mem (s u : State) (b : Bool) (g : Target) (l : Nat) : (s.branch b g l u).mem = u.mem := by cases b <;> rfl
@[simp] theorem State.branch_events (s u : State) (b : Bool) (g : Target) (l : Nat) : (s.branch b g l u).events = u.events := by cases b <;> rfl
@[simp] theorem State.branch_inputs (s u : State) (b : Bool) (g : Target) (l : Nat) : (s.branch b g l u).inputs = u.inputs := by cases b <;> rfl
@[simp] theorem State.branch_draws (s u : State) (b : Bool) (g : Target) (l : Nat) : (s.branch b g l u).draws = u.draws := by cases b <;> rfl
@[simp] theorem State.branch_params (s u : State) (b : Bool) (g : Target) (l : Nat) : (s.branch b g l u).params = u.params := by cases b <;> rfl
theorem State.branch_pc (s u : State) (b : Bool) (g : Target) (l : Nat) :
    (s.branch b g l u).pc = if b = true then s.target g else u.pc + BitVec.ofNat 24 l := by cases b <;> rfl

/-! arrive -/

@[simp] theorem State.arrive_regs (n : IrqCode) (s : State) : (s.arrive n).regs = s.regs := by unfold State.arrive; split <;> rfl
@[simp] theorem State.arrive_flags (n : IrqCode) (s : State) : (s.arrive n).flags = s.flags := by unfold State.arrive; split <;> rfl
@[simp] theorem State.arrive_pc (n : IrqCode) (s : State) : (s.arrive n).pc = s.pc := by unfold State.arrive; split <;> rfl
@[simp] theorem State.arrive_pchHigh (n : IrqCode) (s : State) : (s.arrive n).pchHigh = s.pchHigh := by unfold State.arrive; split <;> rfl
@[simp] theorem State.arrive_halted (n : IrqCode) (s : State) : (s.arrive n).halted = s.halted := by unfold State.arrive; split <;> rfl
@[simp] theorem State.arrive_resetAsserted (n : IrqCode) (s : State) : (s.arrive n).resetAsserted = s.resetAsserted := by unfold State.arrive; split <;> rfl
@[simp] theorem State.arrive_mem (n : IrqCode) (s : State) : (s.arrive n).mem = s.mem := by unfold State.arrive; split <;> rfl
@[simp] theorem State.arrive_events (n : IrqCode) (s : State) : (s.arrive n).events = s.events := by unfold State.arrive; split <;> rfl
@[simp] theorem State.arrive_inputs (n : IrqCode) (s : State) : (s.arrive n).inputs = s.inputs := by unfold State.arrive; split <;> rfl
@[simp] theorem State.arrive_draws (n : IrqCode) (s : State) : (s.arrive n).draws = s.draws := by unfold State.arrive; split <;> rfl
@[simp] theorem State.arrive_params (n : IrqCode) (s : State) : (s.arrive n).params = s.params := by unfold State.arrive; split <;> rfl

/-! writeReg -/

@[simp] theorem State.writeReg_irq (r : Reg) (v : Word) (s : State) : (s.writeReg r v).irq = s.irq := by unfold State.writeReg; split <;> (try split) <;> (try split) <;> rfl
@[simp] theorem State.writeReg_halted (r : Reg) (v : Word) (s : State) : (s.writeReg r v).halted = s.halted := by unfold State.writeReg; split <;> (try split) <;> (try split) <;> rfl
@[simp] theorem State.writeReg_resetAsserted (r : Reg) (v : Word) (s : State) : (s.writeReg r v).resetAsserted = s.resetAsserted := by unfold State.writeReg; split <;> (try split) <;> (try split) <;> rfl
@[simp] theorem State.writeReg_mem (r : Reg) (v : Word) (s : State) : (s.writeReg r v).mem = s.mem := by unfold State.writeReg; split <;> (try split) <;> (try split) <;> rfl
@[simp] theorem State.writeReg_events (r : Reg) (v : Word) (s : State) : (s.writeReg r v).events = s.events := by unfold State.writeReg; split <;> (try split) <;> (try split) <;> rfl
@[simp] theorem State.writeReg_inputs (r : Reg) (v : Word) (s : State) : (s.writeReg r v).inputs = s.inputs := by unfold State.writeReg; split <;> (try split) <;> (try split) <;> rfl
@[simp] theorem State.writeReg_draws (r : Reg) (v : Word) (s : State) : (s.writeReg r v).draws = s.draws := by unfold State.writeReg; split <;> (try split) <;> (try split) <;> rfl
@[simp] theorem State.writeReg_params (r : Reg) (v : Word) (s : State) : (s.writeReg r v).params = s.params := by unfold State.writeReg; split <;> (try split) <;> (try split) <;> rfl

/-! takeInputs -/

theorem State.foldl_input_mem (l : List Input) (s : State) : (l.foldl State.input s).mem = s.mem := by
  induction l generalizing s with
  | nil => rfl
  | cons i l ih => rw [List.foldl_cons, ih]; cases i <;> simp [State.input]

theorem State.foldl_input_params (l : List Input) (s : State) : (l.foldl State.input s).params = s.params := by
  induction l generalizing s with
  | nil => rfl
  | cons i l ih => rw [List.foldl_cons, ih]; cases i <;> simp [State.input]

@[simp] theorem State.takeInputs_mem (s : State) : s.takeInputs.mem = s.mem := by
  unfold State.takeInputs; split
  · rfl
  · exact State.foldl_input_mem _ _

@[simp] theorem State.takeInputs_params (s : State) : s.takeInputs.params = s.params := by
  unfold State.takeInputs; split
  · rfl
  · exact State.foldl_input_params _ _

/-- With no input pending, nothing happens before the boundary. -/
theorem State.takeInputs_of_isEmpty {s : State} (h : s.inputs = []) : s.takeInputs = s := by
  simp [State.takeInputs, h]

end Sys2Proof.Machine
end

