-- ==== Sys2Proof/Laws/Flags.lean ====
section
/-! SUPPORT. Bits, masks and the flag register: what a write of R13 and a flag update do, bit by bit and flag by flag. -/

namespace Sys2Proof.Machine

@[simp] theorem getLsbD_bitMask (i : Fin 16) (k : Nat) : (bitMask i).getLsbD k = decide (k = i.val) := by
  have := i.isLt
  simp only [bitMask, BitVec.getLsbD_shiftLeft, BitVec.getLsbD_one]
  by_cases h : k = i.val
  · simp [h]
  · simp [h]; omega

/-- The word that a bit update leaves, bit by bit. -/
theorem getLsbD_setBitTo (v : Word) (i : Fin 16) (b : Bool) (k : Nat) :
    (setBitTo v i b).getLsbD k = if k = i.val then b else v.getLsbD k := by
  have hi := i.isLt
  have hm := getLsbD_bitMask i k
  by_cases hk : k = i.val
  · subst hk
    cases b
    · simp [setBitTo]
    · simp only [setBitTo, if_true, BitVec.getLsbD_or, hm]; simp
  · have hlt : v.getLsbD k = true → k < 16 := BitVec.lt_of_getLsbD
    cases b
    · simp only [setBitTo, Bool.false_eq_true, if_false, BitVec.getLsbD_and, BitVec.getLsbD_not, hm]
      cases hv : v.getLsbD k <;> simp_all
    · simp only [setBitTo, if_true, BitVec.getLsbD_or, hm]
      cases hv : v.getLsbD k <;> simp_all

/-- The position is one of I2, I1, I0. -/
def State.isIrqBit (s : State) (k : Nat) : Prop :=
  k = (s.flagPos .i2).val ∨ k = (s.flagPos .i1).val ∨ k = (s.flagPos .i0).val

theorem State.getLsbD_irqMask (s : State) (k : Nat) :
    s.irqMask.getLsbD k = true ↔ s.isIrqBit k := by
  simp [State.irqMask, State.isIrqBit, or_assoc]

/-- A write of R13, bit by bit: every bit but the I positions (10 R34). -/
theorem State.writeFlags_bit_of_irq {s : State} {k : Nat} (v : Word) (h : s.isIrqBit k) :
    (s.writeFlags v).flags.getLsbD k = s.flags.getLsbD k := by
  have hm := (s.getLsbD_irqMask k).mpr h
  simp [State.writeFlags, hm]

theorem State.writeFlags_bit_of_not_irq {s : State} {k : Nat} (v : Word) (h : ¬ s.isIrqBit k) :
    (s.writeFlags v).flags.getLsbD k = v.getLsbD k := by
  have hm : s.irqMask.getLsbD k = false := by
    rw [Bool.eq_false_iff]; exact fun e => h ((s.getLsbD_irqMask k).mp e)
  have hlt : v.getLsbD k = true → k < 16 := BitVec.lt_of_getLsbD
  simp only [State.writeFlags, BitVec.getLsbD_or, BitVec.getLsbD_and, BitVec.getLsbD_not, hm]
  cases hv : v.getLsbD k <;> simp_all

/-- Where the I positions are, they stay; the FIFO's head too. -/
theorem State.isIrqBit_congr {s t : State} (h : t.params = s.params) (k : Nat) : t.isIrqBit k ↔ s.isIrqBit k := by
  simp [State.isIrqBit, State.flagPos, h]

theorem State.irqHead_congr {s t : State} (h : t.irq = s.irq) : t.irqHead = s.irqHead := by
  simp [State.irqHead, h]

/-- A read of R13 outside the I positions shows the stored bit (10 R33). -/
theorem State.readFlags_bit_of_not_irq {s : State} {k : Nat} (h : ¬ s.isIrqBit k) :
    s.readFlags.getLsbD k = s.flags.getLsbD k := by
  simp only [State.isIrqBit, not_or] at h
  simp [State.readFlags, getLsbD_setBitTo, h.1, h.2.1, h.2.2]

/-- A read of R13 depends on the stored bits outside the I positions and on the FIFO's head alone. -/
theorem State.readFlags_congr {s t : State} (hp : t.params = s.params) (hi : t.irq = s.irq)
    (hf : ∀ k, ¬ s.isIrqBit k → t.flags.getLsbD k = s.flags.getLsbD k) : t.readFlags = s.readFlags := by
  ext k hk
  simp only [← BitVec.getLsbD_eq_getElem]
  by_cases h : s.isIrqBit k
  · simp only [State.readFlags, getLsbD_setBitTo, State.irqHead_congr hi, State.flagPos, hp]
    simp only [State.isIrqBit, State.flagPos] at h
    rcases h with h | h | h <;> simp [h]
  · rw [State.readFlags_bit_of_not_irq h,
      State.readFlags_bit_of_not_irq (fun e => h ((State.isIrqBit_congr hp k).mp e)), hf k h]

/-! ### Flag by flag, where FLAG_BIT is injective -/

theorem State.flagPos_inj {s : State} (h : s.params.wf = true) {f g : Flag} (e : s.flagPos f = s.flagPos g) : f = g := by
  have hn : (Flag.all.map s.params.flagLayout.pos).Nodup := by simpa [Params.wf] using h
  have hf : ∀ x : Flag, x ∈ Flag.all := by intro x; cases x <;> decide
  exact List.inj_on_of_nodup_map hn (hf f) (hf g) e

theorem State.not_irqBit_of_writable {s : State} (h : s.params.wf = true) {f : Flag} (hf : f.writable = true) :
    ¬ s.isIrqBit (s.flagPos f).val := by
  rintro (e | e | e) <;> have := State.flagPos_inj h (Fin.ext e) <;> subst this <;> simp [Flag.writable] at hf

/-- A flag that software writes is its stored bit. -/
theorem State.flag_eq_bit {s : State} (h : s.params.wf = true) {f : Flag} (hf : f.writable = true) :
    s.flag f = s.flags.getLsbD (s.flagPos f).val :=
  State.readFlags_bit_of_not_irq (State.not_irqBit_of_writable h hf)

@[simp] theorem State.setFlag_flagPos (f g : Flag) (b : Bool) (s : State) : (s.setFlag f b).flagPos g = s.flagPos g := rfl
@[simp] theorem State.setFlags_flagPos (l : List (Flag × Bool)) (g : Flag) (s : State) :
    (s.setFlags l).flagPos g = s.flagPos g := by simp [State.flagPos]

/-- A flag update, bit by bit: the flag's own bit, where it is not an I position, and no other. -/
theorem State.setFlag_bit (s : State) (f : Flag) (b : Bool) (k : Nat) :
    (s.setFlag f b).flags.getLsbD k = s.flags.getLsbD k ∨
      (k = (s.flagPos f).val ∧ ¬ s.isIrqBit k ∧ (s.setFlag f b).flags.getLsbD k = b) := by
  by_cases hi : s.isIrqBit k
  · exact .inl (State.writeFlags_bit_of_irq _ hi)
  · have hw : (s.setFlag f b).flags.getLsbD k = (setBitTo s.flags (s.flagPos f) b).getLsbD k :=
      State.writeFlags_bit_of_not_irq _ hi
    rw [getLsbD_setBitTo] at hw
    by_cases hk : k = (s.flagPos f).val
    · exact .inr ⟨hk, hi, by rw [hw, if_pos hk]⟩
    · exact .inl (by rw [hw, if_neg hk])

theorem State.setFlag_flag_same {s : State} (h : s.params.wf = true) {f : Flag} (b : Bool) (hf : f.writable = true) :
    (s.setFlag f b).flag f = b := by
  have hn := State.not_irqBit_of_writable h hf
  rw [State.flag_eq_bit (by simpa using h) hf, State.setFlag_flagPos]
  have : (s.setFlag f b).flags.getLsbD _ = _ :=
    State.writeFlags_bit_of_not_irq (setBitTo s.flags (s.flagPos f) b) hn
  rw [this, getLsbD_setBitTo, if_pos rfl]

theorem State.setFlag_flag_ne {s : State} (h : s.params.wf = true) {f g : Flag} (b : Bool) (hg : g.writable = true)
    (hn : g ≠ f) : (s.setFlag f b).flag g = s.flag g := by
  rw [State.flag_eq_bit (by simpa using h) hg, State.flag_eq_bit h hg, State.setFlag_flagPos]
  rcases s.setFlag_bit f b (s.flagPos g).val with e | ⟨e, _⟩
  · exact e
  · exact absurd (State.flagPos_inj h (Fin.ext e)) hn

/-- Flag updates leave every stored bit but those of the flags listed. -/
theorem State.setFlags_bit {l : List (Flag × Bool)} {s : State} {k : Nat}
    (h : ∀ x ∈ l, k ≠ (s.flagPos x.1).val) : (s.setFlags l).flags.getLsbD k = s.flags.getLsbD k := by
  induction l generalizing s with
  | nil => rfl
  | cons x l ih =>
    obtain ⟨f, b⟩ := x
    rw [State.setFlags_cons, ih (by intro x hx; exact h x (List.mem_cons_of_mem _ hx))]
    rcases s.setFlag_bit f b k with e | ⟨e, _⟩
    · exact e
    · exact absurd e (h (f, b) List.mem_cons_self)

/-- A flag set once in a list of updates holds the value given. -/
theorem State.setFlags_flag {s : State} (h : s.params.wf = true) {l : List (Flag × Bool)} {f : Flag} {b : Bool}
    (hm : (f, b) ∈ l) (hl : (l.map Prod.fst).Nodup) (hf : f.writable = true) : (s.setFlags l).flag f = b := by
  induction l generalizing s with
  | nil => simp at hm
  | cons x l ih =>
    obtain ⟨g, c⟩ := x
    rw [State.setFlags_cons]
    simp only [List.map_cons, List.nodup_cons] at hl
    by_cases hx : (f, b) ∈ l
    · exact ih (by simpa using h) hx hl.2
    · have e : f = g ∧ b = c := by simpa [hx] using hm
      obtain ⟨rfl, rfl⟩ := e
      have hw : ((s.setFlag f b).setFlags l).params.wf = true := by simpa using h
      rw [State.flag_eq_bit hw hf, State.setFlags_bit, State.setFlags_flagPos, State.setFlag_flagPos]
      · have := State.setFlag_flag_same h b hf
        rwa [State.flag_eq_bit (by simpa using h) hf, State.setFlag_flagPos] at this
      · intro x hx' e
        have : f = x.1 := State.flagPos_inj h (Fin.ext (by simpa using e))
        exact hl.1 (this ▸ List.mem_map_of_mem hx')

theorem State.setFlags_flag_ne {s : State} (h : s.params.wf = true) {l : List (Flag × Bool)} {f : Flag}
    (hn : ∀ x ∈ l, x.1 ≠ f) (hf : f.writable = true) : (s.setFlags l).flag f = s.flag f := by
  rw [State.flag_eq_bit (by simpa using h) hf, State.flag_eq_bit h hf, State.setFlags_flagPos, State.setFlags_bit]
  intro x hx e
  exact hn x hx (State.flagPos_inj h (Fin.ext e)).symm

end Sys2Proof.Machine
end

