-- ==== Sys2Proof/Laws/Memory.lean ====
section
/-! SUPPORT. The laws of memory: a read after a write, and the canonical form kept by every memory operation. -/

namespace Sys2Proof.Machine

theorem Memory.readByte_writeByte_same (m : Memory) (k : Nat) (b : Byte) :
    (m.writeByte k b).readByte k = some b := by
  induction m with
  | nil => simp [Memory.writeByte, Memory.readByte]
  | cons c rest ih =>
    obtain ⟨j, x⟩ := c
    simp only [Memory.writeByte]
    split
    · simp [Memory.readByte]
    · split
      · simp [Memory.readByte]
      · rename_i h; simp [Memory.readByte, Ne.symm h, ih]

theorem Memory.readByte_writeByte_ne (m : Memory) {k l : Nat} (b : Byte) (h : l ≠ k) :
    (m.writeByte k b).readByte l = m.readByte l := by
  induction m with
  | nil => simp [Memory.writeByte, Memory.readByte, Ne.symm h]
  | cons c rest ih =>
    obtain ⟨j, x⟩ := c
    simp only [Memory.writeByte]
    split
    · simp [Memory.readByte, Ne.symm h]
    · split
      · rename_i _ hk; subst hk; simp [Memory.readByte, Ne.symm h]
      · simp [Memory.readByte, ih]

/-- The one law of a byte written: it reads back, and every other byte is as before. -/
theorem Memory.readByte_writeByte (m : Memory) (k l : Nat) (b : Byte) :
    (m.writeByte k b).readByte l = if l = k then some b else m.readByte l := by
  split
  · rename_i h; subst h; exact m.readByte_writeByte_same _ b
  · exact m.readByte_writeByte_ne b ‹_›

/-- A byte outside the word written is as before (20 R57). -/
theorem Memory.readByte_writeWord_ne (m : Memory) (a : Addr) (v : Word) {l : Nat} (h : l ∉ wordBytes a) :
    (m.writeWord a v).readByte l = m.readByte l := by
  simp only [wordBytes, List.mem_cons, List.not_mem_nil, or_false, not_or] at h
  simp [Memory.writeWord, Memory.readByte_writeByte, h.1, h.2]

theorem word_of_bytes (v : Word) : v.extractLsb' 8 8 ++ v.extractLsb' 0 8 = v := by
  ext i hi
  simp only [BitVec.getElem_append, BitVec.getElem_extractLsb']
  split
  · simp [BitVec.getLsbD_eq_getElem hi]
  · rename_i h; rw [show 8 + (i - 8) = i by omega, BitVec.getLsbD_eq_getElem hi]

/-- A word written reads back (20 R55, R57). -/
theorem Memory.readWord_writeWord_same (m : Memory) (a : Addr) (v : Word) :
    (m.writeWord a v).readWord a = some v := by
  simp [Memory.readWord, Memory.writeWord, Memory.readByte_writeByte, word_of_bytes]

/-- A word written leaves every other word as it was (20 R57). -/
theorem Memory.readWord_writeWord_ne (m : Memory) {a c : Addr} (v : Word) (h : c ≠ a) :
    (m.writeWord a v).readWord c = m.readWord c := by
  have h' : c.toNat ≠ a.toNat := fun e => h (BitVec.eq_of_toNat_eq e)
  have h1 : 2 * c.toNat ∉ wordBytes a := by simp [wordBytes]; omega
  have h2 : 2 * c.toNat + 1 ∉ wordBytes a := by simp [wordBytes]; omega
  simp [Memory.readWord, Memory.readByte_writeWord_ne _ _ _ h1, Memory.readByte_writeWord_ne _ _ _ h2]

theorem Memory.readWord_writeWord (m : Memory) (a c : Addr) (v : Word) :
    (m.writeWord a v).readWord c = if c = a then some v else m.readWord c := by
  split
  · rename_i h; subst h; exact m.readWord_writeWord_same _ v
  · exact m.readWord_writeWord_ne v ‹_›

/-! ### The canonical form -/

/-- The first address of a list of cells, where it has one, is above `k`. -/
def Memory.above (k : Nat) (m : Memory) : Prop := ∀ c ∈ m.head?, k < c.1

theorem Memory.rising_cons (c : Host.Cell) (m : Memory) :
    Memory.rising (c :: m) = true ↔ Memory.above c.1 m ∧ m.rising = true := by
  cases m <;> simp [Memory.rising, Memory.above]

theorem Memory.above_writeByte {j k : Nat} {m : Memory} (b : Byte) (hj : j < k) (hm : Memory.above j m) :
    Memory.above j (m.writeByte k b) := by
  cases m with
  | nil => simpa [Memory.above, Memory.writeByte] using hj
  | cons c rest =>
    obtain ⟨i, x⟩ := c
    simp only [Memory.writeByte]
    split
    · simpa [Memory.above] using hj
    · split
      · simpa [Memory.above] using hj
      · simpa [Memory.above] using hm

theorem Memory.rising_writeByte {m : Memory} (k : Nat) (b : Byte) (h : m.rising = true) :
    (m.writeByte k b).rising = true := by
  induction m with
  | nil => simp [Memory.writeByte, Memory.rising]
  | cons c rest ih =>
    obtain ⟨j, x⟩ := c
    have hr := (Memory.rising_cons _ _).mp h
    simp only [Memory.writeByte]
    split
    · rename_i hk; exact (Memory.rising_cons _ _).mpr ⟨by simpa [Memory.above] using hk, h⟩
    · split
      · rename_i _ hk; subst hk; exact (Memory.rising_cons _ _).mpr ⟨hr.1, hr.2⟩
      · exact (Memory.rising_cons _ _).mpr ⟨Memory.above_writeByte b (by simp only; omega) hr.1, ih hr.2⟩

theorem Memory.mem_writeByte {m : Memory} {k : Nat} {b : Byte} {c : Host.Cell} (h : c ∈ m.writeByte k b) :
    c = (k, b) ∨ c ∈ m := by
  induction m with
  | nil => simpa [Memory.writeByte] using h
  | cons d rest ih =>
    obtain ⟨j, x⟩ := d
    simp only [Memory.writeByte] at h
    split at h
    · simpa using h
    · split at h
      · simp only [List.mem_cons] at h ⊢; tauto
      · simp only [List.mem_cons] at h ⊢; tauto

theorem Memory.mem_writeWord {m : Memory} {a : Addr} {v : Word} {c : Host.Cell} (h : c ∈ m.writeWord a v) :
    c.1 ∈ wordBytes a ∨ c ∈ m := by
  rcases Memory.mem_writeByte h with h | h
  · simp [wordBytes, h]
  · rcases Memory.mem_writeByte h with h | h
    · simp [wordBytes, h]
    · exact .inr h

theorem partner_mem_wordBytes {k : Nat} {a : Addr} (h : k ∈ wordBytes a) : partner k ∈ wordBytes a := by
  simp only [wordBytes, List.mem_cons, List.not_mem_nil, or_false] at h ⊢
  rcases h with rfl | rfl <;> simp [partner, Nat.add_mod]

theorem Memory.readByte_writeWord_isSome {m : Memory} {a : Addr} {v : Word} {l : Nat}
    (h : l ∈ wordBytes a ∨ (m.readByte l).isSome = true) : ((m.writeWord a v).readByte l).isSome = true := by
  simp only [wordBytes, List.mem_cons, List.not_mem_nil, or_false] at h
  simp only [Memory.writeWord, Memory.readByte_writeByte]
  split
  · rfl
  · split
    · rfl
    · tauto

/-- A word write keeps the canonical form. -/
theorem Memory.wf_writeWord {m : Memory} (a : Addr) (v : Word) (h : m.wf = true) : (m.writeWord a v).wf = true := by
  simp only [Memory.wf, Bool.and_eq_true] at h ⊢
  obtain ⟨⟨hr, hs⟩, hw⟩ := h
  refine ⟨⟨Memory.rising_writeByte _ _ (Memory.rising_writeByte _ _ hr), ?_⟩, ?_⟩
  · simp only [Memory.inSpace, List.all_eq_true, decide_eq_true_eq] at hs ⊢
    intro c hc
    rcases Memory.mem_writeWord hc with h | h
    · have := a.isLt
      simp only [wordBytes, List.mem_cons, List.not_mem_nil, or_false] at h
      omega
    · exact hs c h
  · simp only [Memory.wholeWords, List.all_eq_true] at hw ⊢
    intro c hc
    apply Memory.readByte_writeWord_isSome
    rcases Memory.mem_writeWord hc with h | h
    · exact .inl (partner_mem_wordBytes h)
    · exact .inr (hw c h)

/-- A program loaded from outside keeps the canonical form. -/
theorem Memory.wf_loadWords {ws : List Word} {a : Addr} {m : Memory} (h : m.wf = true) :
    (loadWords ws a m).wf = true := by
  induction ws generalizing a m with
  | nil => exact h
  | cons w ws ih => exact ih (Memory.wf_writeWord a w h)

end Sys2Proof.Machine
end

