-- ==== Sys2Proof/Laws/Registers.lean ====
section
/-! SUPPORT. The register bank: what a write of one register leaves in each. -/

namespace Sys2Proof.Machine

theorem State.readReg_bank {r : Reg} (h : r.val < 13) (s : State) : s.readReg r = s.regs[r.val] := by
  simp [State.readReg, h]

theorem State.readReg_flags (s : State) : s.readReg 13 = s.readFlags := by
  simp [State.readReg]

theorem State.writeReg_bank {r : Reg} (h : r.val < 13) (v : Word) (s : State) :
    s.writeReg r v = { s with regs := s.regs.set r.val v } := by
  simp [State.writeReg, h]

theorem State.writeReg_flags (v : Word) (s : State) : s.writeReg 13 v = s.writeFlags v := by
  simp [State.writeReg]

/-- R00 to R12 hold what was last written (10 R21, R22). -/
theorem State.readReg_writeReg_same {r : Reg} (h : r.val < 13) (v : Word) (s : State) :
    (s.writeReg r v).readReg r = v := by
  rw [State.readReg_bank h, State.writeReg_bank h]; simp

/-- A write of one of R00 to R13 leaves the other registers of R00 to R12 (10 R22). -/
theorem State.readReg_writeReg_ne {r q : Reg} (hr : r.val < 14) (hq : q.val < 13) (hn : q ≠ r) (v : Word) (s : State) :
    (s.writeReg r v).readReg q = s.readReg q := by
  rw [State.readReg_bank hq, State.readReg_bank hq]
  by_cases h13 : r.val < 13
  · rw [State.writeReg_bank h13]
    have : r.val ≠ q.val := fun e => hn (Fin.ext e.symm)
    simp [this]
  · have : r = 13 := Fin.ext (by simp; omega)
    subst this; rw [State.writeReg_flags]; rfl

/-- A write of R00 to R12 leaves the flag register and the program counter. -/
theorem State.writeReg_flags_of_lt {r : Reg} (h : r.val < 13) (v : Word) (s : State) :
    (s.writeReg r v).flags = s.flags := by rw [State.writeReg_bank h]

theorem State.writeReg_pc {r : Reg} (h : r.val < 14) (v : Word) (s : State) : (s.writeReg r v).pc = s.pc := by
  have : ¬ r.val = 14 := by omega
  unfold State.writeReg; split
  · rfl
  · split
    · rfl
    · rename_i h1 h2; omega

theorem State.writeReg_pchHigh {r : Reg} (h : r.val < 14) (v : Word) (s : State) :
    (s.writeReg r v).pchHigh = s.pchHigh := by
  unfold State.writeReg; split
  · rfl
  · split
    · rfl
    · rename_i h1 h2; omega

/-- A read of a register depends on the registers, the flag register and the program counter alone. -/
theorem State.readReg_congr {s t : State} {r : Reg} (hr : r.val < 13) (h : t.regs = s.regs) :
    t.readReg r = s.readReg r := by
  rw [State.readReg_bank hr, State.readReg_bank hr]; simp [h]

theorem State.sp_eq_readReg (s : State) : s.sp = s.readReg 12 := rfl

@[simp] theorem State.setSp_sp (v : Word) (s : State) : (s.setSp v).sp = v := by simp [State.sp, State.setSp]

theorem State.setSp_readReg_ne {r : Reg} (hr : r.val < 12) (v : Word) (s : State) :
    (s.setSp v).readReg r = s.readReg r := by
  have h : r.val < 13 := by omega
  rw [State.readReg_bank h, State.readReg_bank h]
  simp [State.setSp, show ¬ 12 = r.val by omega]

/-- What `Wrote` says holds after a write of any of R00 to R13. -/
theorem State.wrote_writeReg {r : Reg} (h : r.val < 14) (v : Word) (s : State) : Wrote r v s (s.writeReg r v) := by
  unfold Wrote; split
  · rename_i e; subst e
    intro b
    rw [State.writeReg_flags]
    split
    · rename_i hb
      apply State.writeFlags_bit_of_irq
      simpa [State.isIrqBit, Fin.ext_iff] using hb
    · rename_i hb
      apply State.writeFlags_bit_of_not_irq
      simpa [State.isIrqBit, Fin.ext_iff] using hb
  · rename_i e
    have : r.val < 13 := by
      have : r.val ≠ 13 := fun e' => e (Fin.ext e')
      omega
    exact State.readReg_writeReg_same this v s

end Sys2Proof.Machine
end

