-- ==== Sys2Proof/Laws/Ops.lean ====
section
/-! SUPPORT. For each shared operation, one lemma that says once what it can do, and that it keeps what no operation of an
instruction touches. -/

namespace Sys2Proof.Machine

/-! ### Sequencing -/

/-- A sequence of operations ends well exactly when each of them does. -/
theorem bind_eq_ok {α β : Type} {x : Except Stop α} {f : α → Except Stop β} {b : β} :
    (x >>= f) = .ok b ↔ ∃ a, x = .ok a ∧ f a = .ok b := by
  cases x with
  | error e => simp [bind, Except.bind]
  | ok a => simp [bind, Except.bind]

@[simp] theorem ok_bind {α β : Type} (a : α) (f : α → Except Stop β) : ((.ok a : Except Stop α) >>= f) = f a := rfl

@[simp] theorem error_bind {α β : Type} (e : Stop) (f : α → Except Stop β) :
    ((.error e : Except Stop α) >>= f) = .error e := rfl

@[simp] theorem finish_ok (t : State) : finish (.ok t) = .next t := rfl

/-- An outcome is a next state exactly when the operation ended well. -/
theorem finish_eq_next {x : Except Stop State} {t : State} : finish x = .next t ↔ x = .ok t := by
  cases x with
  | error e => cases e <;> simp [finish, Stop.outcome]
  | ok a => simp [finish]

/-- The spec's refusals and nothing else stop an instruction before it begins (30 R109). -/
theorem guardForm_of_wf {f : Form} (h : f.wf = true) : guardForm f = .ok () := by
  simp only [Form.wf, Bool.and_eq_true, Bool.not_eq_true'] at h
  simp [guardForm, refusalOf, h.1.1, h.1.2, h.2]

theorem guardForm_eq_ok {f : Form} : guardForm f = .ok () ↔ f.wf = true := by
  refine ⟨fun h => ?_, guardForm_of_wf⟩
  cases h1 : f.namesPc <;> cases h2 : f.stacksSp <;> cases h3 : f.flagsIntoF <;>
    simp_all [guardForm, refusalOf, Form.wf]

/-- A register field of a well-formed instruction is one of R00 to R13. -/
theorem Form.lt_of_wf {f : Form} (h : f.wf = true) {r : Reg} (hr : r ∈ f.registers) : r.val < 14 := by
  simp only [Form.wf, Form.namesPc, Bool.and_eq_true, Bool.not_eq_true', List.any_eq_false, decide_eq_true_eq] at h
  have := h.1.1 r hr
  omega

/-! ### What no operation of an instruction touches -/

/-- What every operation of an instruction keeps: the FIFO, the halted bit, the reset line, the inputs, the parameters, the
stored I positions (10 R34), and memory's canonical form. -/
structure Carries (s t : State) : Prop where
  irq : t.irq = s.irq
  halted : t.halted = s.halted
  resetAsserted : t.resetAsserted = s.resetAsserted
  inputs : t.inputs = s.inputs
  params : t.params = s.params
  irqBits : ∀ k, s.isIrqBit k → t.flags.getLsbD k = s.flags.getLsbD k
  wf : s.mem.wf = true → t.mem.wf = true

theorem Carries.refl (s : State) : Carries s s := ⟨rfl, rfl, rfl, rfl, rfl, fun _ _ => rfl, id⟩

theorem Carries.trans {s t u : State} (h : Carries s t) (g : Carries t u) : Carries s u where
  irq := g.irq.trans h.irq
  halted := g.halted.trans h.halted
  resetAsserted := g.resetAsserted.trans h.resetAsserted
  inputs := g.inputs.trans h.inputs
  params := g.params.trans h.params
  irqBits := fun k hk =>
    (g.irqBits k ((State.isIrqBit_congr h.params k).mpr hk)).trans (h.irqBits k hk)
  wf := fun w => g.wf (h.wf w)

theorem Carries.writeFlags (v : Word) (s : State) : Carries s (s.writeFlags v) :=
  ⟨rfl, rfl, rfl, rfl, rfl, fun _ hk => State.writeFlags_bit_of_irq v hk, id⟩

theorem Carries.setFlag (f : Flag) (b : Bool) (s : State) : Carries s (s.setFlag f b) := Carries.writeFlags _ s

theorem Carries.setFlags (l : List (Flag × Bool)) (s : State) : Carries s (s.setFlags l) := by
  induction l generalizing s with
  | nil => exact Carries.refl s
  | cons x l ih => exact (Carries.setFlag x.1 x.2 s).trans (ih _)

theorem Carries.writeReg (r : Reg) (v : Word) (s : State) : Carries s (s.writeReg r v) := by
  unfold State.writeReg; split
  · exact ⟨rfl, rfl, rfl, rfl, rfl, fun _ _ => rfl, id⟩
  · split
    · exact Carries.writeFlags v s
    · split <;> exact ⟨rfl, rfl, rfl, rfl, rfl, fun _ _ => rfl, id⟩

theorem Carries.setSp (v : Word) (s : State) : Carries s (s.setSp v) :=
  ⟨rfl, rfl, rfl, rfl, rfl, fun _ _ => rfl, id⟩

theorem Carries.setPc (a : Addr) (s : State) : Carries s (s.setPc a) :=
  ⟨rfl, rfl, rfl, rfl, rfl, fun _ _ => rfl, id⟩

theorem Carries.advance (l : Nat) (s : State) : Carries s (s.advance l) := Carries.setPc _ s

theorem Carries.branch (s u : State) (b : Bool) (g : Target) (l : Nat) : Carries u (s.branch b g l u) := by
  cases b
  · exact Carries.advance l u
  · exact Carries.setPc _ u

theorem Carries.afterRead (a : Addr) (s : State) : Carries s (s.afterRead a) := by
  unfold State.afterRead; split
  · exact ⟨rfl, rfl, rfl, rfl, rfl, fun _ _ => rfl, id⟩
  · exact Carries.refl s

theorem Carries.drawCountFlags (s : State) : Carries s s.drawCountFlags :=
  let h := Carries.setFlags _ s
  ⟨h.irq, h.halted, h.resetAsserted, h.inputs, h.params, h.irqBits, h.wf⟩

/-! ### Memory -/

/-- A read that goes through gives the word held or the device's, and leaves a trace only at a device (20 R55, R62). -/
theorem State.memRead_of_readable {s : State} {a : Addr} (h : s.readable a = true) :
    s.memRead a = .ok (s.valueAt a, s.afterRead a) := by
  unfold State.readable at h
  unfold State.memRead State.valueAt State.afterRead
  cases hk : kindAt s.params a with
  | none => simp [hk] at h
  | some k =>
    cases k with
    | device => rfl
    | ram => simp only [hk] at h; obtain ⟨v, hv⟩ := Option.isSome_iff_exists.mp h; simp [hv]
    | flash => simp only [hk] at h; obtain ⟨v, hv⟩ := Option.isSome_iff_exists.mp h; simp [hv]

theorem State.memRead_eq_ok {s t : State} {a : Addr} {v : Word} :
    s.memRead a = .ok (v, t) ↔ s.readable a = true ∧ v = s.valueAt a ∧ t = s.afterRead a := by
  constructor
  · intro h
    have hr : s.readable a = true := by
      unfold State.memRead at h
      unfold State.readable
      cases hk : kindAt s.params a with
      | none => simp [hk] at h
      | some k =>
        cases k with
        | device => rfl
        | ram => simp only [hk] at h ⊢; cases hv : s.mem.readWord a <;> simp_all
        | flash => simp only [hk] at h ⊢; cases hv : s.mem.readWord a <;> simp_all
    rw [State.memRead_of_readable hr] at h
    simp only [Except.ok.injEq, Prod.mk.injEq] at h
    exact ⟨hr, h.1.symm, h.2.symm⟩
  · rintro ⟨hr, rfl, rfl⟩
    exact State.memRead_of_readable hr

/-- A word held in RAM or flash is readable, is the value read, and reading it changes nothing. -/
theorem State.of_holds {s : State} {a : Addr} {v : Word} (h : s.holds a v = true) :
    s.readable a = true ∧ s.valueAt a = v ∧ s.afterRead a = s := by
  simp only [State.holds, Bool.and_eq_true, Bool.or_eq_true, beq_iff_eq] at h
  obtain ⟨hk | hk, hv⟩ := h <;> simp [State.readable, State.valueAt, State.afterRead, hk, hv]

theorem State.memRead_of_holds {s : State} {a : Addr} {v : Word} (h : s.holds a v = true) :
    s.memRead a = .ok (v, s) := by
  obtain ⟨hr, hv, ha⟩ := State.of_holds h
  rw [State.memRead_of_readable hr, hv, ha]

/-- A write that goes through replaces the word in RAM, or is an event at a device, or is ignored by the flash of a
platform that ignores it (20 R55, R57). -/
theorem State.memWrite_eq_ok {s t : State} {a : Addr} {v : Word} (h : s.memWrite a v = .ok t) :
    (kindAt s.params a = some .ram ∧ t = { s with mem := s.mem.writeWord a v }) ∨
    (kindAt s.params a = some .device ∧ t = { s with events := s.events ++ [.deviceWrite a v] }) ∨
    (kindAt s.params a = some .flash ∧ s.params.flashStore = .ignore ∧ t = s) := by
  unfold State.memWrite at h
  cases hk : kindAt s.params a with
  | none => simp [hk] at h
  | some k =>
    cases k with
    | device => simp only [hk, Except.ok.injEq] at h; exact .inr (.inl ⟨rfl, h.symm⟩)
    | ram => simp only [hk, Except.ok.injEq] at h; exact .inl ⟨rfl, h.symm⟩
    | flash =>
      simp only [hk] at h
      cases hf : s.params.flashStore <;> simp [hf] at h
      exact .inr (.inr ⟨rfl, rfl, h.symm⟩)

theorem State.memWrite_of_ram {s : State} {a : Addr} (v : Word) (h : s.ramAt a = true) :
    s.memWrite a v = .ok { s with mem := s.mem.writeWord a v } := by
  simp only [State.ramAt, beq_iff_eq] at h
  simp [State.memWrite, h]

theorem Carries.memRead {s t : State} {a : Addr} {v : Word} (h : s.memRead a = .ok (v, t)) : Carries s t := by
  obtain ⟨_, _, rfl⟩ := State.memRead_eq_ok.mp h
  exact Carries.afterRead a s

theorem Carries.memWrite {s t : State} {a : Addr} {v : Word} (h : s.memWrite a v = .ok t) : Carries s t := by
  rcases State.memWrite_eq_ok h with ⟨_, rfl⟩ | ⟨_, rfl⟩ | ⟨_, _, rfl⟩
  · exact ⟨rfl, rfl, rfl, rfl, rfl, fun _ _ => rfl, Memory.wf_writeWord a v⟩
  · exact ⟨rfl, rfl, rfl, rfl, rfl, fun _ _ => rfl, id⟩
  · exact Carries.refl _

/-- A write leaves the registers, the flags, the program counter and the free values (20 R66). -/
theorem State.memWrite_frame {s t : State} {a : Addr} {v : Word} (h : s.memWrite a v = .ok t) :
    t.regs = s.regs ∧ t.flags = s.flags ∧ t.pc = s.pc ∧ t.pchHigh = s.pchHigh ∧ t.draws = s.draws := by
  rcases State.memWrite_eq_ok h with ⟨_, rfl⟩ | ⟨_, rfl⟩ | ⟨_, _, rfl⟩ <;> exact ⟨rfl, rfl, rfl, rfl, rfl⟩

/-- A write leaves every byte but those of the word it stores to (20 R57). -/
theorem State.memWrite_memory {s t : State} {a : Addr} {v : Word} (h : s.memWrite a v = .ok t) :
    SameMemoryBut [a] s t := by
  intro k hk
  have hk' : k ∉ wordBytes a := hk a (by simp)
  rcases State.memWrite_eq_ok h with ⟨_, rfl⟩ | ⟨_, rfl⟩ | ⟨_, _, rfl⟩
  · exact Memory.readByte_writeWord_ne _ _ _ hk'
  · rfl
  · rfl

theorem Carries.readWords {n : Nat} {a : Addr} {s t : State} {ws : List Word}
    (h : readWords n a s = .ok (ws, t)) : Carries s t := by
  induction n generalizing a s t ws with
  | zero => simp only [Machine.readWords, Except.ok.injEq, Prod.mk.injEq] at h; rw [← h.2]; exact Carries.refl s
  | succ n ih =>
    simp only [Machine.readWords, bind_eq_ok] at h
    obtain ⟨⟨w, s1⟩, h1, ⟨ws', s2⟩, h2, h3⟩ := h
    simp only [Except.ok.injEq, Prod.mk.injEq] at h3
    rw [← h3.2]
    exact (Carries.memRead h1).trans (ih h2)

/-! ### The stack -/

/-- A push stores at its slot and moves the stack pointer down by one (10 R26). -/
theorem State.push_eq_ok {s t : State} {v : Word} (h : s.push v = .ok t) :
    ∃ s1, s.memWrite s.pushSlot v = .ok s1 ∧ t = s1.setSp (s.sp - 1) := by
  simp only [State.push, bind_eq_ok, Except.ok.injEq] at h
  obtain ⟨s1, h1, h2⟩ := h
  exact ⟨s1, h1, h2.symm⟩

/-- A pop reads its slot and moves the stack pointer up by one (10 R26). -/
theorem State.pop_eq_ok {s t : State} {v : Word} (h : s.pop = .ok (v, t)) :
    ∃ s1, s.memRead s.popSlot = .ok (v, s1) ∧ t = s1.setSp (s.sp + 1) := by
  simp only [State.pop, bind_eq_ok, Except.ok.injEq, Prod.mk.injEq, Prod.exists] at h
  obtain ⟨w, s1, h1, rfl, h2⟩ := h
  exact ⟨s1, h1, h2.symm⟩

theorem State.push_of_ram {s : State} (v : Word) (h : s.ramAt s.pushSlot = true) :
    s.push v = .ok (({ s with mem := s.mem.writeWord s.pushSlot v } : State).setSp (s.sp - 1)) := by
  simp [State.push, State.memWrite_of_ram v h]

theorem State.pop_of_holds {s : State} {v : Word} (h : s.holds s.popSlot v = true) :
    s.pop = .ok (v, s.setSp (s.sp + 1)) := by
  simp [State.pop, State.memRead_of_holds h]

theorem Carries.push {s t : State} {v : Word} (h : s.push v = .ok t) : Carries s t := by
  obtain ⟨s1, h1, rfl⟩ := State.push_eq_ok h
  exact (Carries.memWrite h1).trans (Carries.setSp _ _)

theorem Carries.pop {s t : State} {v : Word} (h : s.pop = .ok (v, t)) : Carries s t := by
  obtain ⟨s1, h1, rfl⟩ := State.pop_eq_ok h
  exact (Carries.memRead h1).trans (Carries.setSp _ _)

theorem Carries.pushAll {vs : List Word} {s t : State} (h : s.pushAll vs = .ok t) : Carries s t := by
  induction vs generalizing s with
  | nil => simp only [State.pushAll, Except.ok.injEq] at h; rw [← h]; exact Carries.refl s
  | cons v vs ih =>
    simp only [State.pushAll, bind_eq_ok] at h
    obtain ⟨s1, h1, h2⟩ := h
    exact (Carries.push h1).trans (ih h2)

theorem Carries.popRegs {rs : List Reg} {s t : State} (h : s.popRegs rs = .ok t) : Carries s t := by
  induction rs generalizing s with
  | nil => simp only [State.popRegs, Except.ok.injEq] at h; rw [← h]; exact Carries.refl s
  | cons r rs ih =>
    simp only [State.popRegs, bind_eq_ok, Prod.exists] at h
    obtain ⟨v, s1, h1, h2⟩ := h
    exact ((Carries.pop h1).trans (Carries.writeReg r v s1)).trans (ih h2)

theorem Carries.pushAddr {a : Addr} {s t : State} (h : s.pushAddr a = .ok t) : Carries s t := Carries.pushAll h

theorem Carries.popAddr {a : Addr} {s t : State} (h : s.popAddr = .ok (a, t)) : Carries s t := by
  simp only [State.popAddr, bind_eq_ok, Prod.exists, Except.ok.injEq, Prod.mk.injEq] at h
  obtain ⟨w1, s1, h1, w0, s2, h2, _, rfl⟩ := h
  exact (Carries.pop h1).trans (Carries.pop h2)

theorem Carries.readVector {n : Nat} {a : Addr} {s t : State} (h : s.readVector n = .ok (a, t)) : Carries s t := by
  simp only [State.readVector, bind_eq_ok, Prod.exists, Except.ok.injEq, Prod.mk.injEq] at h
  obtain ⟨w0, s1, h1, w1, s2, h2, _, rfl⟩ := h
  exact (Carries.memRead h1).trans (Carries.memRead h2)

/-! ### Operands -/

/-- A second operand that can be read gives its value, and leaves a trace only at a device (30 R89). -/
theorem State.operand_of_readable {s : State} {o : Operand} (h : s.operandReadable o = true) :
    s.operand o = .ok (s.operandValue o, s.afterOperand o) := by
  cases o with
  | register r => rfl
  | source src =>
    cases src with
    | immediate v => rfl
    | memory q => exact State.memRead_of_readable h

theorem State.source_of_readable {s : State} {src : Source} (h : s.operandReadable (.source src) = true) :
    s.source src = .ok (s.operandValue (.source src), s.afterOperand (.source src)) :=
  State.operand_of_readable h

theorem Carries.operand {s t : State} {o : Operand} {v : Word} (h : s.operand o = .ok (v, t)) : Carries s t := by
  cases o with
  | register r => simp only [State.operand, Except.ok.injEq, Prod.mk.injEq] at h; rw [← h.2]; exact Carries.refl s
  | source src =>
    cases src with
    | immediate w =>
      simp only [State.operand, State.source, Except.ok.injEq, Prod.mk.injEq] at h; rw [← h.2]; exact Carries.refl s
    | memory q => exact Carries.memRead h

/-! ### The FIFO -/

theorem State.arrive_length (n : IrqCode) {s : State} (h : s.irq.length ≤ 4) : (s.arrive n).irq.length ≤ 4 := by
  unfold State.arrive; split
  · simp; omega
  · exact h

theorem State.input_length {s : State} (i : Input) (h : s.irq.length ≤ 4) : (s.input i).irq.length ≤ 4 := by
  cases i with
  | irq n => exact State.arrive_length n h
  | reset => exact h

/-- Whatever the environment does, the FIFO holds at most four requests (10 R39, 60 R203). -/
theorem State.takeInputs_length {s : State} (h : s.irq.length ≤ 4) : s.takeInputs.irq.length ≤ 4 := by
  have key : ∀ (l : List Input) (u : State), u.irq.length ≤ 4 → (l.foldl State.input u).irq.length ≤ 4 := by
    intro l
    induction l with
    | nil => intro u hu; exact hu
    | cons i l ih => intro u hu; exact ih _ (State.input_length i hu)
  unfold State.takeInputs; split
  · exact h
  · exact key _ _ h

end Sys2Proof.Machine
end

