-- ==== Sys2Proof/Laws/Forms.lean ====
section
/-! SUPPORT. The structured view of the instructions: `exec` on a form is the shared meaning of that form. -/

namespace Sys2Proof.Machine

/-- `exec` over the structured view: the shared meaning of each form. -/
def execForm (f : Form) (s : State) : Host.Outcome State Fault Refusal :=
  match f with
  | .load rd src => finish (loadInto rd src s)
  | .store rs q => finish (storeFrom rs q s)
  | .move rd rs => finish (moveWord rd rs s)
  | .alu op rd o => finish (aluInto op rd o s)
  | .unary op rd => finish (unaryOn op rd s)
  | .bitBranch b rs f t => finish (branchOnBit b rs f t s)
  | .countBranch b rd t => finish (branchAndCount b rd t s)
  | .compare c rs o t => finish (branchOnCompare c rs o t s)
  | .jump t => finish (jumpTo t s)
  | .call t => finish (callTo t s)
  | .ret => finish (returnFromCall s)
  | .reti => finish s.returnFromInterrupt
  | .push rs => finish (pushFrom rs s)
  | .pop rd => finish (popInto rd s)
  | .setBit rd f => finish (setBitIn rd f s)
  | .resetBit rd f => finish (resetBitIn rd f s)
  | .halt => finish (haltHere s)
  | .nop => finish (doNothing s)

/-- Every arm of `exec` is the shared meaning of the instruction's form. -/
theorem exec_form (i : Instr) (s : State) : exec i s = execForm i.form s := by
  cases i <;> rfl

/-- The two views of an instruction are one: form, instruction, form. -/
theorem Form.instr_form (f : Form) : f.instr.form = f := by
  rcases f with ⟨rd, src⟩ | ⟨rs, q⟩ | ⟨rd, rs⟩ | ⟨op, rd, o⟩ | ⟨op, rd⟩ | ⟨b, rs, f, t⟩ | ⟨b, rd, t⟩ | ⟨c, rs, o, t⟩ | t | t | _ | _ | rs | rd | ⟨rd, f⟩ | ⟨rd, f⟩ | _ | _
  case load => rcases src with v | q <;> [rfl; (cases q <;> rfl)]
  case store => cases q <;> rfl
  case alu =>
    rcases o with r | src
    · cases op <;> rfl
    · rcases src with v | q
      · cases op <;> rfl
      · cases op <;> cases q <;> rfl
  case unary => cases op <;> rfl
  case bitBranch => cases b <;> cases t <;> rfl
  case countBranch => cases b <;> cases t <;> rfl
  case compare =>
    rcases o with r | src
    · cases c <;> cases t <;> rfl
    · rcases src with v | q
      · cases c <;> cases t <;> rfl
      · cases c <;> cases t <;> cases q <;> rfl
  case jump => cases t <;> rfl
  case call => cases t <;> rfl
  all_goals rfl

/-- The two views of an instruction are one: instruction, form, instruction. -/
theorem Instr.form_instr (i : Instr) : i.form.instr = i := by cases i <;> rfl

/-- What the statements over forms unfold to. -/
theorem exec_instr (f : Form) (s : State) : exec f.instr s = execForm f s := by
  rw [exec_form, Form.instr_form]

end Sys2Proof.Machine
end

