-- ==== Sys2Proof/Laws/Frames.lean ====
section
/-! SUPPORT. Frames of the shared operations: what writing a register, writing flags and moving the program counter
leave unchanged, in the terms of Sys2Proof/Safety.lean. -/

namespace Sys2Proof.Machine

/-- The flags of two states that agree on the flag word, the FIFO and the parameters. -/
theorem State.flag_congr {s t : State} (hp : t.params = s.params) (hi : t.irq = s.irq) (hf : t.flags = s.flags)
    (f : Flag) : t.flag f = s.flag f := by
  simp [State.flag, State.readFlags, State.flagPos, State.irqHead, hp, hi, hf]

theorem State.branch_flag (s u : State) (b : Bool) (g : Target) (l : Nat) (f : Flag) :
    (s.branch b g l u).flag f = u.flag f :=
  State.flag_congr (by simp) (by simp) (by simp) f

/-- `Wrote` from an earlier state with the same flag word and parameters. -/
theorem Wrote.of_left {rd : Reg} {v : Word} {s s' t : State} (hf : s'.flags = s.flags)
    (hp : s'.params = s.params) (h : Wrote rd v s' t) : Wrote rd v s t := by
  by_cases e : rd = 13
  · subst e
    simp only [Wrote, if_true] at *
    intro b
    have := h b
    simpa [State.flagPos, hf, hp] using this
  · simp only [Wrote, e, if_false] at *
    exact h

/-- `Wrote` to a later state with the same flag word and registers. -/
theorem Wrote.to_right {rd : Reg} {v : Word} {s t t' : State} (hrd : rd.val < 14) (h : Wrote rd v s t)
    (hf : t'.flags = t.flags) (hr : t'.regs = t.regs) : Wrote rd v s t' := by
  by_cases e : rd = 13
  · subst e
    simp only [Wrote, if_true] at *
    intro b
    rw [hf]
    exact h b
  · have : rd.val < 13 := by
      have : rd.val ≠ 13 := fun e' => e (Fin.ext e')
      omega
    simp only [Wrote, e, if_false] at *
    rw [State.readReg_congr this hr]
    exact h

theorem setSp_sameRegsBut {s t : State} {v : Word} (h : t.regs = s.regs.set 12 v) : SameRegsBut [12] s t := by
  intro r hr hn
  have : r ≠ 12 := by simpa using hn
  have : ¬ 12 = r.val := fun e => this (Fin.ext e.symm)
  rw [State.readReg_bank hr, State.readReg_bank hr]
  simp [h, this]

/-- Flags written one after another leave every other bit of R13 as it was. -/
theorem setFlags_sameFlagsBut {s : State} {U : List (Flag × Bool)} {fs : List Flag} (hU : ∀ x ∈ U, x.1 ∈ fs) :
    SameFlagsBut fs s (s.setFlags U) := by
  intro b hb
  apply State.setFlags_bit
  intro x hx e
  exact hb x.1 (hU x hx) (Fin.ext e)

/-- The frame of a state that differs in the program counter, the flags listed, the events and the draws alone. -/
theorem Frame.of_same {s t : State} (h1 : t.regs = s.regs) (h2 : t.mem = s.mem) (h3 : Untouched s t)
    (fs : List Flag) (h4 : SameFlagsBut fs s t) : Frame [] fs s t :=
  ⟨fun _ hr _ => State.readReg_congr hr h1, fun _ => h4, fun k => by rw [h2], h3⟩

/-- A branch adds nothing to what has changed but the program counter. -/
theorem Frame.branch {l' : List Reg} {fs : List Flag} {s0 s u : State} {b : Bool} {g : Target} {l : Nat}
    (h : Frame l' fs s0 u) : Frame l' fs s0 (s.branch b g l u) := by
  obtain ⟨x1, x2, x3, x4⟩ := h
  refine ⟨fun r hr hn => ?_, fun hn k hk => ?_, fun k => ?_, ?_⟩
  · rw [State.readReg_congr hr (State.branch_regs _ _ _ _ _), x1 r hr hn]
  · rw [State.branch_flags, x2 hn k hk]
  · rw [State.branch_mem, x3 k]
  · simpa [Untouched] using x4

/-- The frame of a result and its flags: a register of R00 to R12 written after flags were, and the program counter
advanced, with the second operand read before. -/
theorem Frame.of_result {rd : Reg} (hrd : rd.val < 13) {U : List (Flag × Bool)} {fs : List Flag}
    (hU : ∀ x ∈ U, x.1 ∈ fs) (v : Word) (l : Nat) (o : Operand) (s : State) :
    Frame [rd] fs s ((((s.afterOperand o).setFlags U).writeReg rd v).advance l) := by
  refine ⟨?_, ?_, ?_, ?_⟩
  · intro r hr13 hn
    have hn' : r ≠ rd := by simpa using hn
    rw [State.readReg_congr hr13 (State.advance_regs _ _), State.readReg_writeReg_ne (by omega) hr13 hn',
      State.readReg_congr hr13 (by simp : _ = s.regs)]
  · intro _ b hb
    rw [State.advance_flags, State.writeReg_flags_of_lt hrd, State.setFlags_bit]
    · simp
    · intro x hx e
      have := hb x.1 (hU x hx)
      apply this
      simpa [Fin.ext_iff, State.flagPos] using e
  · intro k
    simp
  · simp [Untouched, State.writeReg_pchHigh (show rd.val < 14 by omega)]

/-- The flags a result leaves, after the register is written and the program counter advanced. -/
theorem result_flag {rd : Reg} (hrd : rd.val < 13) (v : Word) (l : Nat) {s : State} (hw : s.params.wf = true)
    {U : List (Flag × Bool)} {f : Flag} {b : Bool} (hm : (f, b) ∈ U) (hl : (U.map Prod.fst).Nodup)
    (hf : f.writable = true) : (((s.setFlags U).writeReg rd v).advance l).flag f = b := by
  rw [State.flag_congr (s := s.setFlags U) (by simp) (by simp) (by simp [State.writeReg_flags_of_lt hrd]),
    State.setFlags_flag hw hm hl hf]

end Sys2Proof.Machine
end

