-- ==== Sys2Proof/Laws/PerInstr.lean ====
section
/-! SUPPORT. One lemma per instruction: the words an instruction is encoded in are as many as its length says
(spec/30_encoding.md R98). -/

namespace Sys2Proof.Laws

open Sys2Proof.Machine

/-- Whatever the parameters, the encoding has `L` words (30 R98). -/
def EncodeLength.Statement (i : Instr) : Prop := ∀ p : Params, (encode p i).length = i.length

theorem addrWords_length (o : AddrOrder) (a : Addr) : (addrWords o a).length = 2 := by cases o <;> rfl

theorem Place.ext_length (p : Params) (q : Place) : (q.ext p).length = q.words := by
  cases q <;> simp [Place.ext, Place.words, addrWords_length]

theorem Source.ext_length (p : Params) (o : Source) : (o.ext p).length = o.words := by
  cases o <;> simp [Source.ext, Source.words, Place.ext_length]

theorem Operand.ext_length (p : Params) (o : Operand) : (o.ext p).length = o.words := by
  cases o <;> simp [Operand.ext, Operand.words, Source.ext_length]

theorem Target.ext_length (p : Params) (t : Target) : (t.ext p).length = t.words := by
  cases t <;> simp [Target.ext, Target.words, addrWords_length]

/-- The extension words of a form, counted. -/
theorem Form.ext_length (p : Params) (f : Form) : 1 + (f.ext p).length = f.length := by
  cases f
  case compare c rs o t =>
    simp only [Form.ext, Form.length]
    split <;> simp [Operand.ext_length, Target.ext_length] <;> omega
  all_goals
    simp [Form.ext, Form.length, Place.ext_length, Source.ext_length, Operand.ext_length, Target.ext_length]

/-- The whole case for each instruction. -/
theorem EncodeLength.of_form (i : Instr) : EncodeLength.Statement i := fun p => by
  have := Form.ext_length p i.form
  simpa [encode, Instr.length, Nat.add_comm] using this


theorem EncodeLength.ldImmediate (rd : Reg) (v : Word) : EncodeLength.Statement (.ldImmediate rd v) := EncodeLength.of_form _

theorem EncodeLength.ldDirect (rd : Reg) (a : Word) : EncodeLength.Statement (.ldDirect rd a) := EncodeLength.of_form _

theorem EncodeLength.ldAbsolute (rd : Reg) (a : Addr) : EncodeLength.Statement (.ldAbsolute rd a) := EncodeLength.of_form _

theorem EncodeLength.ldRelative (rd : Reg) (off : Word) : EncodeLength.Statement (.ldRelative rd off) := EncodeLength.of_form _

theorem EncodeLength.ldIndirectY (rd : Reg) : EncodeLength.Statement (.ldIndirectY rd) := EncodeLength.of_form _

theorem EncodeLength.ldIndexedY (rd : Reg) (off : Word) : EncodeLength.Statement (.ldIndexedY rd off) := EncodeLength.of_form _

theorem EncodeLength.ldIndirectZ (rd : Reg) : EncodeLength.Statement (.ldIndirectZ rd) := EncodeLength.of_form _

theorem EncodeLength.ldIndexedZ (rd : Reg) (off : Word) : EncodeLength.Statement (.ldIndexedZ rd off) := EncodeLength.of_form _

theorem EncodeLength.stDirect (rs : Reg) (a : Word) : EncodeLength.Statement (.stDirect rs a) := EncodeLength.of_form _

theorem EncodeLength.stAbsolute (rs : Reg) (a : Addr) : EncodeLength.Statement (.stAbsolute rs a) := EncodeLength.of_form _

theorem EncodeLength.stRelative (rs : Reg) (off : Word) : EncodeLength.Statement (.stRelative rs off) := EncodeLength.of_form _

theorem EncodeLength.stIndirectY (rs : Reg) : EncodeLength.Statement (.stIndirectY rs) := EncodeLength.of_form _

theorem EncodeLength.stIndexedY (rs : Reg) (off : Word) : EncodeLength.Statement (.stIndexedY rs off) := EncodeLength.of_form _

theorem EncodeLength.stIndirectZ (rs : Reg) : EncodeLength.Statement (.stIndirectZ rs) := EncodeLength.of_form _

theorem EncodeLength.stIndexedZ (rs : Reg) (off : Word) : EncodeLength.Statement (.stIndexedZ rs off) := EncodeLength.of_form _

theorem EncodeLength.mv (rd : Reg) (rs : Reg) : EncodeLength.Statement (.mv rd rs) := EncodeLength.of_form _

theorem EncodeLength.addRegister (rd : Reg) (rs : Reg) : EncodeLength.Statement (.addRegister rd rs) := EncodeLength.of_form _

theorem EncodeLength.addImmediate (rd : Reg) (v : Word) : EncodeLength.Statement (.addImmediate rd v) := EncodeLength.of_form _

theorem EncodeLength.addDirect (rd : Reg) (a : Word) : EncodeLength.Statement (.addDirect rd a) := EncodeLength.of_form _

theorem EncodeLength.addAbsolute (rd : Reg) (a : Addr) : EncodeLength.Statement (.addAbsolute rd a) := EncodeLength.of_form _

theorem EncodeLength.addRelative (rd : Reg) (off : Word) : EncodeLength.Statement (.addRelative rd off) := EncodeLength.of_form _

theorem EncodeLength.addIndirectY (rd : Reg) : EncodeLength.Statement (.addIndirectY rd) := EncodeLength.of_form _

theorem EncodeLength.addIndexedY (rd : Reg) (off : Word) : EncodeLength.Statement (.addIndexedY rd off) := EncodeLength.of_form _

theorem EncodeLength.addIndirectZ (rd : Reg) : EncodeLength.Statement (.addIndirectZ rd) := EncodeLength.of_form _

theorem EncodeLength.addIndexedZ (rd : Reg) (off : Word) : EncodeLength.Statement (.addIndexedZ rd off) := EncodeLength.of_form _

theorem EncodeLength.subRegister (rd : Reg) (rs : Reg) : EncodeLength.Statement (.subRegister rd rs) := EncodeLength.of_form _

theorem EncodeLength.subImmediate (rd : Reg) (v : Word) : EncodeLength.Statement (.subImmediate rd v) := EncodeLength.of_form _

theorem EncodeLength.subDirect (rd : Reg) (a : Word) : EncodeLength.Statement (.subDirect rd a) := EncodeLength.of_form _

theorem EncodeLength.subAbsolute (rd : Reg) (a : Addr) : EncodeLength.Statement (.subAbsolute rd a) := EncodeLength.of_form _

theorem EncodeLength.subRelative (rd : Reg) (off : Word) : EncodeLength.Statement (.subRelative rd off) := EncodeLength.of_form _

theorem EncodeLength.subIndirectY (rd : Reg) : EncodeLength.Statement (.subIndirectY rd) := EncodeLength.of_form _

theorem EncodeLength.subIndexedY (rd : Reg) (off : Word) : EncodeLength.Statement (.subIndexedY rd off) := EncodeLength.of_form _

theorem EncodeLength.subIndirectZ (rd : Reg) : EncodeLength.Statement (.subIndirectZ rd) := EncodeLength.of_form _

theorem EncodeLength.subIndexedZ (rd : Reg) (off : Word) : EncodeLength.Statement (.subIndexedZ rd off) := EncodeLength.of_form _

theorem EncodeLength.andRegister (rd : Reg) (rs : Reg) : EncodeLength.Statement (.andRegister rd rs) := EncodeLength.of_form _

theorem EncodeLength.andImmediate (rd : Reg) (v : Word) : EncodeLength.Statement (.andImmediate rd v) := EncodeLength.of_form _

theorem EncodeLength.andDirect (rd : Reg) (a : Word) : EncodeLength.Statement (.andDirect rd a) := EncodeLength.of_form _

theorem EncodeLength.andAbsolute (rd : Reg) (a : Addr) : EncodeLength.Statement (.andAbsolute rd a) := EncodeLength.of_form _

theorem EncodeLength.andRelative (rd : Reg) (off : Word) : EncodeLength.Statement (.andRelative rd off) := EncodeLength.of_form _

theorem EncodeLength.andIndirectY (rd : Reg) : EncodeLength.Statement (.andIndirectY rd) := EncodeLength.of_form _

theorem EncodeLength.andIndexedY (rd : Reg) (off : Word) : EncodeLength.Statement (.andIndexedY rd off) := EncodeLength.of_form _

theorem EncodeLength.andIndirectZ (rd : Reg) : EncodeLength.Statement (.andIndirectZ rd) := EncodeLength.of_form _

theorem EncodeLength.andIndexedZ (rd : Reg) (off : Word) : EncodeLength.Statement (.andIndexedZ rd off) := EncodeLength.of_form _

theorem EncodeLength.orRegister (rd : Reg) (rs : Reg) : EncodeLength.Statement (.orRegister rd rs) := EncodeLength.of_form _

theorem EncodeLength.orImmediate (rd : Reg) (v : Word) : EncodeLength.Statement (.orImmediate rd v) := EncodeLength.of_form _

theorem EncodeLength.orDirect (rd : Reg) (a : Word) : EncodeLength.Statement (.orDirect rd a) := EncodeLength.of_form _

theorem EncodeLength.orAbsolute (rd : Reg) (a : Addr) : EncodeLength.Statement (.orAbsolute rd a) := EncodeLength.of_form _

theorem EncodeLength.orRelative (rd : Reg) (off : Word) : EncodeLength.Statement (.orRelative rd off) := EncodeLength.of_form _

theorem EncodeLength.orIndirectY (rd : Reg) : EncodeLength.Statement (.orIndirectY rd) := EncodeLength.of_form _

theorem EncodeLength.orIndexedY (rd : Reg) (off : Word) : EncodeLength.Statement (.orIndexedY rd off) := EncodeLength.of_form _

theorem EncodeLength.orIndirectZ (rd : Reg) : EncodeLength.Statement (.orIndirectZ rd) := EncodeLength.of_form _

theorem EncodeLength.orIndexedZ (rd : Reg) (off : Word) : EncodeLength.Statement (.orIndexedZ rd off) := EncodeLength.of_form _

theorem EncodeLength.xorRegister (rd : Reg) (rs : Reg) : EncodeLength.Statement (.xorRegister rd rs) := EncodeLength.of_form _

theorem EncodeLength.xorImmediate (rd : Reg) (v : Word) : EncodeLength.Statement (.xorImmediate rd v) := EncodeLength.of_form _

theorem EncodeLength.xorDirect (rd : Reg) (a : Word) : EncodeLength.Statement (.xorDirect rd a) := EncodeLength.of_form _

theorem EncodeLength.xorAbsolute (rd : Reg) (a : Addr) : EncodeLength.Statement (.xorAbsolute rd a) := EncodeLength.of_form _

theorem EncodeLength.xorRelative (rd : Reg) (off : Word) : EncodeLength.Statement (.xorRelative rd off) := EncodeLength.of_form _

theorem EncodeLength.xorIndirectY (rd : Reg) : EncodeLength.Statement (.xorIndirectY rd) := EncodeLength.of_form _

theorem EncodeLength.xorIndexedY (rd : Reg) (off : Word) : EncodeLength.Statement (.xorIndexedY rd off) := EncodeLength.of_form _

theorem EncodeLength.xorIndirectZ (rd : Reg) : EncodeLength.Statement (.xorIndirectZ rd) := EncodeLength.of_form _

theorem EncodeLength.xorIndexedZ (rd : Reg) (off : Word) : EncodeLength.Statement (.xorIndexedZ rd off) := EncodeLength.of_form _

theorem EncodeLength.inc (rd : Reg) : EncodeLength.Statement (.inc rd) := EncodeLength.of_form _

theorem EncodeLength.dec (rd : Reg) : EncodeLength.Statement (.dec rd) := EncodeLength.of_form _

theorem EncodeLength.not (rd : Reg) : EncodeLength.Statement (.not rd) := EncodeLength.of_form _

theorem EncodeLength.lsl (rd : Reg) : EncodeLength.Statement (.lsl rd) := EncodeLength.of_form _

theorem EncodeLength.lsr (rd : Reg) : EncodeLength.Statement (.lsr rd) := EncodeLength.of_form _

theorem EncodeLength.lrl (rd : Reg) : EncodeLength.Statement (.lrl rd) := EncodeLength.of_form _

theorem EncodeLength.lrr (rd : Reg) : EncodeLength.Statement (.lrr rd) := EncodeLength.of_form _

theorem EncodeLength.lsb (rd : Reg) : EncodeLength.Statement (.lsb rd) := EncodeLength.of_form _

theorem EncodeLength.bbRel (rs : Reg) (f : BitIndex) (off : Word) : EncodeLength.Statement (.bbRel rs f off) := EncodeLength.of_form _

theorem EncodeLength.bbAbs (rs : Reg) (f : BitIndex) (t : Addr) : EncodeLength.Statement (.bbAbs rs f t) := EncodeLength.of_form _

theorem EncodeLength.bnbRel (rs : Reg) (f : BitIndex) (off : Word) : EncodeLength.Statement (.bnbRel rs f off) := EncodeLength.of_form _

theorem EncodeLength.bnbAbs (rs : Reg) (f : BitIndex) (t : Addr) : EncodeLength.Statement (.bnbAbs rs f t) := EncodeLength.of_form _

theorem EncodeLength.bzRel (rd : Reg) (off : Word) : EncodeLength.Statement (.bzRel rd off) := EncodeLength.of_form _

theorem EncodeLength.bzAbs (rd : Reg) (t : Addr) : EncodeLength.Statement (.bzAbs rd t) := EncodeLength.of_form _

theorem EncodeLength.bnzRel (rd : Reg) (off : Word) : EncodeLength.Statement (.bnzRel rd off) := EncodeLength.of_form _

theorem EncodeLength.bnzAbs (rd : Reg) (t : Addr) : EncodeLength.Statement (.bnzAbs rd t) := EncodeLength.of_form _

theorem EncodeLength.beqRegisterRel (rs : Reg) (rs2 : Reg) (toff : Word) : EncodeLength.Statement (.beqRegisterRel rs rs2 toff) := EncodeLength.of_form _

theorem EncodeLength.beqImmediateRel (rs : Reg) (v : Word) (toff : Word) : EncodeLength.Statement (.beqImmediateRel rs v toff) := EncodeLength.of_form _

theorem EncodeLength.beqDirectRel (rs : Reg) (a : Word) (toff : Word) : EncodeLength.Statement (.beqDirectRel rs a toff) := EncodeLength.of_form _

theorem EncodeLength.beqAbsoluteRel (rs : Reg) (a : Addr) (toff : Word) : EncodeLength.Statement (.beqAbsoluteRel rs a toff) := EncodeLength.of_form _

theorem EncodeLength.beqRelativeRel (rs : Reg) (off : Word) (toff : Word) : EncodeLength.Statement (.beqRelativeRel rs off toff) := EncodeLength.of_form _

theorem EncodeLength.beqIndirectYRel (rs : Reg) (toff : Word) : EncodeLength.Statement (.beqIndirectYRel rs toff) := EncodeLength.of_form _

theorem EncodeLength.beqIndexedYRel (rs : Reg) (off : Word) (toff : Word) : EncodeLength.Statement (.beqIndexedYRel rs off toff) := EncodeLength.of_form _

theorem EncodeLength.beqIndirectZRel (rs : Reg) (toff : Word) : EncodeLength.Statement (.beqIndirectZRel rs toff) := EncodeLength.of_form _

theorem EncodeLength.beqIndexedZRel (rs : Reg) (off : Word) (toff : Word) : EncodeLength.Statement (.beqIndexedZRel rs off toff) := EncodeLength.of_form _

theorem EncodeLength.beqRegisterAbs (rs : Reg) (rs2 : Reg) (t : Addr) : EncodeLength.Statement (.beqRegisterAbs rs rs2 t) := EncodeLength.of_form _

theorem EncodeLength.beqImmediateAbs (rs : Reg) (v : Word) (t : Addr) : EncodeLength.Statement (.beqImmediateAbs rs v t) := EncodeLength.of_form _

theorem EncodeLength.beqDirectAbs (rs : Reg) (a : Word) (t : Addr) : EncodeLength.Statement (.beqDirectAbs rs a t) := EncodeLength.of_form _

theorem EncodeLength.beqAbsoluteAbs (rs : Reg) (a : Addr) (t : Addr) : EncodeLength.Statement (.beqAbsoluteAbs rs a t) := EncodeLength.of_form _

theorem EncodeLength.beqRelativeAbs (rs : Reg) (off : Word) (t : Addr) : EncodeLength.Statement (.beqRelativeAbs rs off t) := EncodeLength.of_form _

theorem EncodeLength.beqIndirectYAbs (rs : Reg) (t : Addr) : EncodeLength.Statement (.beqIndirectYAbs rs t) := EncodeLength.of_form _

theorem EncodeLength.beqIndexedYAbs (rs : Reg) (off : Word) (t : Addr) : EncodeLength.Statement (.beqIndexedYAbs rs off t) := EncodeLength.of_form _

theorem EncodeLength.beqIndirectZAbs (rs : Reg) (t : Addr) : EncodeLength.Statement (.beqIndirectZAbs rs t) := EncodeLength.of_form _

theorem EncodeLength.beqIndexedZAbs (rs : Reg) (off : Word) (t : Addr) : EncodeLength.Statement (.beqIndexedZAbs rs off t) := EncodeLength.of_form _

theorem EncodeLength.bneqRegisterRel (rs : Reg) (rs2 : Reg) (toff : Word) : EncodeLength.Statement (.bneqRegisterRel rs rs2 toff) := EncodeLength.of_form _

theorem EncodeLength.bneqImmediateRel (rs : Reg) (v : Word) (toff : Word) : EncodeLength.Statement (.bneqImmediateRel rs v toff) := EncodeLength.of_form _

theorem EncodeLength.bneqDirectRel (rs : Reg) (a : Word) (toff : Word) : EncodeLength.Statement (.bneqDirectRel rs a toff) := EncodeLength.of_form _

theorem EncodeLength.bneqAbsoluteRel (rs : Reg) (a : Addr) (toff : Word) : EncodeLength.Statement (.bneqAbsoluteRel rs a toff) := EncodeLength.of_form _

theorem EncodeLength.bneqRelativeRel (rs : Reg) (off : Word) (toff : Word) : EncodeLength.Statement (.bneqRelativeRel rs off toff) := EncodeLength.of_form _

theorem EncodeLength.bneqIndirectYRel (rs : Reg) (toff : Word) : EncodeLength.Statement (.bneqIndirectYRel rs toff) := EncodeLength.of_form _

theorem EncodeLength.bneqIndexedYRel (rs : Reg) (off : Word) (toff : Word) : EncodeLength.Statement (.bneqIndexedYRel rs off toff) := EncodeLength.of_form _

theorem EncodeLength.bneqIndirectZRel (rs : Reg) (toff : Word) : EncodeLength.Statement (.bneqIndirectZRel rs toff) := EncodeLength.of_form _

theorem EncodeLength.bneqIndexedZRel (rs : Reg) (off : Word) (toff : Word) : EncodeLength.Statement (.bneqIndexedZRel rs off toff) := EncodeLength.of_form _

theorem EncodeLength.bneqRegisterAbs (rs : Reg) (rs2 : Reg) (t : Addr) : EncodeLength.Statement (.bneqRegisterAbs rs rs2 t) := EncodeLength.of_form _

theorem EncodeLength.bneqImmediateAbs (rs : Reg) (v : Word) (t : Addr) : EncodeLength.Statement (.bneqImmediateAbs rs v t) := EncodeLength.of_form _

theorem EncodeLength.bneqDirectAbs (rs : Reg) (a : Word) (t : Addr) : EncodeLength.Statement (.bneqDirectAbs rs a t) := EncodeLength.of_form _

theorem EncodeLength.bneqAbsoluteAbs (rs : Reg) (a : Addr) (t : Addr) : EncodeLength.Statement (.bneqAbsoluteAbs rs a t) := EncodeLength.of_form _

theorem EncodeLength.bneqRelativeAbs (rs : Reg) (off : Word) (t : Addr) : EncodeLength.Statement (.bneqRelativeAbs rs off t) := EncodeLength.of_form _

theorem EncodeLength.bneqIndirectYAbs (rs : Reg) (t : Addr) : EncodeLength.Statement (.bneqIndirectYAbs rs t) := EncodeLength.of_form _

theorem EncodeLength.bneqIndexedYAbs (rs : Reg) (off : Word) (t : Addr) : EncodeLength.Statement (.bneqIndexedYAbs rs off t) := EncodeLength.of_form _

theorem EncodeLength.bneqIndirectZAbs (rs : Reg) (t : Addr) : EncodeLength.Statement (.bneqIndirectZAbs rs t) := EncodeLength.of_form _

theorem EncodeLength.bneqIndexedZAbs (rs : Reg) (off : Word) (t : Addr) : EncodeLength.Statement (.bneqIndexedZAbs rs off t) := EncodeLength.of_form _

theorem EncodeLength.bgtRegisterRel (rs : Reg) (rs2 : Reg) (toff : Word) : EncodeLength.Statement (.bgtRegisterRel rs rs2 toff) := EncodeLength.of_form _

theorem EncodeLength.bgtImmediateRel (rs : Reg) (v : Word) (toff : Word) : EncodeLength.Statement (.bgtImmediateRel rs v toff) := EncodeLength.of_form _

theorem EncodeLength.bgtDirectRel (rs : Reg) (a : Word) (toff : Word) : EncodeLength.Statement (.bgtDirectRel rs a toff) := EncodeLength.of_form _

theorem EncodeLength.bgtAbsoluteRel (rs : Reg) (a : Addr) (toff : Word) : EncodeLength.Statement (.bgtAbsoluteRel rs a toff) := EncodeLength.of_form _

theorem EncodeLength.bgtRelativeRel (rs : Reg) (off : Word) (toff : Word) : EncodeLength.Statement (.bgtRelativeRel rs off toff) := EncodeLength.of_form _

theorem EncodeLength.bgtIndirectYRel (rs : Reg) (toff : Word) : EncodeLength.Statement (.bgtIndirectYRel rs toff) := EncodeLength.of_form _

theorem EncodeLength.bgtIndexedYRel (rs : Reg) (off : Word) (toff : Word) : EncodeLength.Statement (.bgtIndexedYRel rs off toff) := EncodeLength.of_form _

theorem EncodeLength.bgtIndirectZRel (rs : Reg) (toff : Word) : EncodeLength.Statement (.bgtIndirectZRel rs toff) := EncodeLength.of_form _

theorem EncodeLength.bgtIndexedZRel (rs : Reg) (off : Word) (toff : Word) : EncodeLength.Statement (.bgtIndexedZRel rs off toff) := EncodeLength.of_form _

theorem EncodeLength.bgtRegisterAbs (rs : Reg) (rs2 : Reg) (t : Addr) : EncodeLength.Statement (.bgtRegisterAbs rs rs2 t) := EncodeLength.of_form _

theorem EncodeLength.bgtImmediateAbs (rs : Reg) (v : Word) (t : Addr) : EncodeLength.Statement (.bgtImmediateAbs rs v t) := EncodeLength.of_form _

theorem EncodeLength.bgtDirectAbs (rs : Reg) (a : Word) (t : Addr) : EncodeLength.Statement (.bgtDirectAbs rs a t) := EncodeLength.of_form _

theorem EncodeLength.bgtAbsoluteAbs (rs : Reg) (a : Addr) (t : Addr) : EncodeLength.Statement (.bgtAbsoluteAbs rs a t) := EncodeLength.of_form _

theorem EncodeLength.bgtRelativeAbs (rs : Reg) (off : Word) (t : Addr) : EncodeLength.Statement (.bgtRelativeAbs rs off t) := EncodeLength.of_form _

theorem EncodeLength.bgtIndirectYAbs (rs : Reg) (t : Addr) : EncodeLength.Statement (.bgtIndirectYAbs rs t) := EncodeLength.of_form _

theorem EncodeLength.bgtIndexedYAbs (rs : Reg) (off : Word) (t : Addr) : EncodeLength.Statement (.bgtIndexedYAbs rs off t) := EncodeLength.of_form _

theorem EncodeLength.bgtIndirectZAbs (rs : Reg) (t : Addr) : EncodeLength.Statement (.bgtIndirectZAbs rs t) := EncodeLength.of_form _

theorem EncodeLength.bgtIndexedZAbs (rs : Reg) (off : Word) (t : Addr) : EncodeLength.Statement (.bgtIndexedZAbs rs off t) := EncodeLength.of_form _

theorem EncodeLength.bgeRegisterRel (rs : Reg) (rs2 : Reg) (toff : Word) : EncodeLength.Statement (.bgeRegisterRel rs rs2 toff) := EncodeLength.of_form _

theorem EncodeLength.bgeImmediateRel (rs : Reg) (v : Word) (toff : Word) : EncodeLength.Statement (.bgeImmediateRel rs v toff) := EncodeLength.of_form _

theorem EncodeLength.bgeDirectRel (rs : Reg) (a : Word) (toff : Word) : EncodeLength.Statement (.bgeDirectRel rs a toff) := EncodeLength.of_form _

theorem EncodeLength.bgeAbsoluteRel (rs : Reg) (a : Addr) (toff : Word) : EncodeLength.Statement (.bgeAbsoluteRel rs a toff) := EncodeLength.of_form _

theorem EncodeLength.bgeRelativeRel (rs : Reg) (off : Word) (toff : Word) : EncodeLength.Statement (.bgeRelativeRel rs off toff) := EncodeLength.of_form _

theorem EncodeLength.bgeIndirectYRel (rs : Reg) (toff : Word) : EncodeLength.Statement (.bgeIndirectYRel rs toff) := EncodeLength.of_form _

theorem EncodeLength.bgeIndexedYRel (rs : Reg) (off : Word) (toff : Word) : EncodeLength.Statement (.bgeIndexedYRel rs off toff) := EncodeLength.of_form _

theorem EncodeLength.bgeIndirectZRel (rs : Reg) (toff : Word) : EncodeLength.Statement (.bgeIndirectZRel rs toff) := EncodeLength.of_form _

theorem EncodeLength.bgeIndexedZRel (rs : Reg) (off : Word) (toff : Word) : EncodeLength.Statement (.bgeIndexedZRel rs off toff) := EncodeLength.of_form _

theorem EncodeLength.bgeRegisterAbs (rs : Reg) (rs2 : Reg) (t : Addr) : EncodeLength.Statement (.bgeRegisterAbs rs rs2 t) := EncodeLength.of_form _

theorem EncodeLength.bgeImmediateAbs (rs : Reg) (v : Word) (t : Addr) : EncodeLength.Statement (.bgeImmediateAbs rs v t) := EncodeLength.of_form _

theorem EncodeLength.bgeDirectAbs (rs : Reg) (a : Word) (t : Addr) : EncodeLength.Statement (.bgeDirectAbs rs a t) := EncodeLength.of_form _

theorem EncodeLength.bgeAbsoluteAbs (rs : Reg) (a : Addr) (t : Addr) : EncodeLength.Statement (.bgeAbsoluteAbs rs a t) := EncodeLength.of_form _

theorem EncodeLength.bgeRelativeAbs (rs : Reg) (off : Word) (t : Addr) : EncodeLength.Statement (.bgeRelativeAbs rs off t) := EncodeLength.of_form _

theorem EncodeLength.bgeIndirectYAbs (rs : Reg) (t : Addr) : EncodeLength.Statement (.bgeIndirectYAbs rs t) := EncodeLength.of_form _

theorem EncodeLength.bgeIndexedYAbs (rs : Reg) (off : Word) (t : Addr) : EncodeLength.Statement (.bgeIndexedYAbs rs off t) := EncodeLength.of_form _

theorem EncodeLength.bgeIndirectZAbs (rs : Reg) (t : Addr) : EncodeLength.Statement (.bgeIndirectZAbs rs t) := EncodeLength.of_form _

theorem EncodeLength.bgeIndexedZAbs (rs : Reg) (off : Word) (t : Addr) : EncodeLength.Statement (.bgeIndexedZAbs rs off t) := EncodeLength.of_form _

theorem EncodeLength.jmpRel (off : Word) : EncodeLength.Statement (.jmpRel off) := EncodeLength.of_form _

theorem EncodeLength.jmpAbs (t : Addr) : EncodeLength.Statement (.jmpAbs t) := EncodeLength.of_form _

theorem EncodeLength.jmsRel (off : Word) : EncodeLength.Statement (.jmsRel off) := EncodeLength.of_form _

theorem EncodeLength.jmsAbs (t : Addr) : EncodeLength.Statement (.jmsAbs t) := EncodeLength.of_form _

theorem EncodeLength.ret : EncodeLength.Statement (.ret) := EncodeLength.of_form _

theorem EncodeLength.reti : EncodeLength.Statement (.reti) := EncodeLength.of_form _

theorem EncodeLength.push (rs : Reg) : EncodeLength.Statement (.push rs) := EncodeLength.of_form _

theorem EncodeLength.pop (rd : Reg) : EncodeLength.Statement (.pop rd) := EncodeLength.of_form _

theorem EncodeLength.sb (rd : Reg) (f : BitIndex) : EncodeLength.Statement (.sb rd f) := EncodeLength.of_form _

theorem EncodeLength.rb (rd : Reg) (f : BitIndex) : EncodeLength.Statement (.rb rd f) := EncodeLength.of_form _

theorem EncodeLength.hlt : EncodeLength.Statement (.hlt) := EncodeLength.of_form _

theorem EncodeLength.nop : EncodeLength.Statement (.nop) := EncodeLength.of_form _

end Sys2Proof.Laws
end

