-- ==== Sys2Proof/Laws/Stack.lean ====
section
/-! SUPPORT. What the stack and vector operations do where every slot is RAM or holds a value (spec/10_state.md R26,
spec/42_control_flow.md R175, spec/60_exceptions.md R204). -/

namespace Sys2Proof.Machine

theorem State.ramAt_iff {s : State} {a : Addr} : s.ramAt a = true ↔ kindAt s.params a = some .ram := by
  simp [State.ramAt]

theorem stackAddr_toNat (v : Word) : (stackAddr v).toNat = v.toNat := by
  rw [stackAddr, joinAddr_toNat]
  simp

theorem stackAddr_inj {v w : Word} : stackAddr v = stackAddr w ↔ v = w := by
  constructor
  · intro h
    apply BitVec.eq_of_toNat_eq
    rw [← stackAddr_toNat, h, stackAddr_toNat]
  · rintro rfl
    rfl

theorem State.pushSlot_eq (s : State) : s.pushSlot = s.slotBelow 0 := by
  unfold State.pushSlot State.slotBelow
  cases s.params.stack <;> simp

theorem State.popSlot_eq (s : State) : s.popSlot = s.slotAbove 0 := by
  unfold State.popSlot State.slotAbove
  cases s.params.stack <;> simp

theorem sub_one_sub (a : Word) (k : Nat) : a - 1 - BitVec.ofNat 16 k = a - BitVec.ofNat 16 (k + 1) := by
  apply BitVec.eq_of_toNat_eq
  simp only [BitVec.toNat_sub, BitVec.toNat_ofNat]
  have := a.isLt
  simp
  omega

theorem add_one_add (a : Word) (k : Nat) : a + 1 + BitVec.ofNat 16 k = a + BitVec.ofNat 16 (k + 1) := by
  apply BitVec.eq_of_toNat_eq
  simp only [BitVec.toNat_add, BitVec.toNat_ofNat]
  have := a.isLt
  simp
  omega

/-- After one push the slots below are those one further down. -/
theorem State.slotBelow_succ {s t : State} (hp : t.params = s.params) (hs : t.sp = s.sp - 1) (k : Nat) :
    t.slotBelow k = s.slotBelow (k + 1) := by
  unfold State.slotBelow
  rw [hp, hs]
  cases s.params.stack <;> simp only [sub_one_sub]

/-- After one pop the slots above are those one further up. -/
theorem State.slotAbove_succ {s t : State} (hp : t.params = s.params) (hs : t.sp = s.sp + 1) (k : Nat) :
    t.slotAbove k = s.slotAbove (k + 1) := by
  unfold State.slotAbove
  rw [hp, hs]
  cases s.params.stack <;> simp only [add_one_add]

/-- Slots below are distinct for 65535 pushes. -/
theorem State.slotBelow_inj {s : State} {j k : Nat} (hj : j < 65535) (hk : k < 65535)
    (h : s.slotBelow j = s.slotBelow k) : j = k := by
  unfold State.slotBelow at h
  have hs := s.sp.isLt
  cases hp : s.params.stack <;> simp only [hp, stackAddr_inj] at h <;> have h' := congrArg BitVec.toNat h <;>
    simp only [BitVec.toNat_sub, BitVec.toNat_ofNat] at h' <;> omega

theorem set_sp_self (s : State) : s.regs.set 12 s.sp = s.regs := by
  apply Vector.ext
  intro i hi
  by_cases e : i = 12
  · subst e
    simp [State.sp]
  · have e' : ¬ 12 = i := fun x => e x.symm
    simp [e']

theorem set_set_sp (r : Vector Word 13) (v w : Word) : (r.set 12 v).set 12 w = r.set 12 w := by
  apply Vector.ext
  intro i hi
  by_cases e : i = 12
  · subst e
    simp
  · have e' : ¬ 12 = i := fun x => e x.symm
    simp [e']

/-- Words pushed where every slot is RAM: the stack pointer drops by their number, the slots hold them, and every other
word and byte of memory stays. -/
theorem State.pushAll_of_ram (vs : List Word) (s : State) (h : ∀ k < vs.length, s.ramAt (s.slotBelow k) = true) :
    ∃ m, s.pushAll vs =
        .ok { s with mem := m, regs := s.regs.set 12 (s.sp - BitVec.ofNat 16 vs.length) } ∧
      (vs.length ≤ 65535 → ∀ k < vs.length, m.readWord (s.slotBelow k) = vs[k]?) ∧
      (∀ a, (∀ k < vs.length, a ≠ s.slotBelow k) → m.readWord a = s.mem.readWord a) ∧
      (∀ b, (∀ k < vs.length, b ∉ wordBytes (s.slotBelow k)) → m.readByte b = s.mem.readByte b) := by
  induction vs generalizing s with
  | nil => exact ⟨s.mem, by simp [State.pushAll, set_sp_self], by simp, by simp, by simp⟩
  | cons v vs ih =>
    have e0 := State.push_of_ram (s := s) v (by rw [State.pushSlot_eq]; exact h 0 (by simp))
    rw [State.pushSlot_eq] at e0
    set s1 := ({ s with mem := s.mem.writeWord (s.slotBelow 0) v } : State).setSp (s.sp - 1) with hs1
    have hslot : ∀ k, s1.slotBelow k = s.slotBelow (k + 1) :=
      State.slotBelow_succ (by simp [hs1]) (by simp [hs1])
    obtain ⟨m, e1, hm, hframe, hbyte⟩ := ih s1 (by
      intro k hk
      have := h (k + 1) (by simp; omega)
      rw [hslot]
      simpa [State.ramAt, hs1] using this)
    refine ⟨m, ?_, ?_, ?_, ?_⟩
    · simp only [State.pushAll, e0, ok_bind, e1]
      rw [show s1.sp - BitVec.ofNat 16 vs.length = s.sp - BitVec.ofNat 16 (v :: vs).length by
        rw [show s1.sp = s.sp - 1 by simp [hs1], sub_one_sub]; rfl]
      simp only [hs1, State.setSp, set_set_sp]
    · intro hlen k hk
      cases k with
      | zero =>
        rw [hframe (s.slotBelow 0) (by
          intro k hk e
          rw [hslot] at e
          have := State.slotBelow_inj (by omega) (by simp at hlen; omega) e
          omega)]
        simp only [hs1, State.setSp_mem, Memory.readWord_writeWord_same]
        rfl
      | succ k =>
        rw [← hslot, hm (by simp at hlen; omega) k (by simpa using hk)]
        rfl
    · intro a ha
      rw [hframe a (by intro k hk; rw [hslot]; exact ha (k + 1) (by simp; omega))]
      simp only [hs1, State.setSp_mem]
      exact Memory.readWord_writeWord_ne _ _ (ha 0 (by simp))
    · intro b hb
      rw [hbyte b (by intro k hk; rw [hslot]; exact hb (k + 1) (by simp; omega))]
      simp only [hs1, State.setSp_mem]
      exact Memory.readByte_writeWord_ne _ _ _ (hb 0 (by simp))

/-- A pop whose slot holds a value. -/
theorem State.pop_of_slot {s : State} {v : Word} (h : s.holds (s.slotAbove 0) v = true) :
    s.pop = .ok (v, s.setSp (s.sp + 1)) :=
  State.pop_of_holds (by rw [State.popSlot_eq]; exact h)

/-- An address popped from two slots that hold values (42 R175). -/
theorem State.popAddr_of_slots {s : State} {w0 w1 : Word} (h0 : s.holds (s.slotAbove 0) w0 = true)
    (h1 : s.holds (s.slotAbove 1) w1 = true) :
    s.popAddr = .ok (pairAddr s.params.stackOrder w1 w0, { s with regs := s.regs.set 12 (s.sp + 2) }) := by
  have e0 := State.pop_of_slot h0
  have hslot : (s.setSp (s.sp + 1)).slotAbove 0 = s.slotAbove 1 := State.slotAbove_succ (by simp) (by simp) 0
  have e1 := State.pop_of_slot (s := s.setSp (s.sp + 1)) (v := w1) (by rw [hslot]; simpa [State.holds] using h1)
  simp only [State.popAddr, e0, ok_bind, e1]
  congr 2
  simp only [State.setSp_sp]
  simp only [State.setSp, set_set_sp]
  congr 2
  simp [BitVec.add_assoc]

/-- A vector whose two words hold values (60 R204). -/
theorem State.readVector_of_vectorIs {s : State} {n : Nat} {w0 w1 : Word} (h : s.vectorIs n w0 w1) :
    s.readVector n = .ok (pairAddr s.params.vectorOrder w0 w1, s) := by
  obtain ⟨h0, h1⟩ := h
  have e : BitVec.ofNat 24 (2 * n) + 1 = BitVec.ofNat 24 (2 * n + 1) := by
    apply BitVec.eq_of_toNat_eq
    simp
  simp only [State.readVector, vectorSlot, State.memRead_of_holds h0, ok_bind, e, State.memRead_of_holds h1]

end Sys2Proof.Machine
end

