-- ==== Sys2Proof/Tests/Slice0.lean ====
section
/-! SUPPORT. Tests. The expected results are those of spec/95_test_vectors.md (its row is named in each docstring), or worked
out from the rule named; none is the model's own answer. At the end, one witness or more for each statement with
hypotheses. -/

namespace Sys2Proof.Tests

open Sys2Proof Sys2Proof.Machine

/-! ### The well-formedness checks (spec/30_encoding.md R109) -/

/-- R109 (a): a register field of 14 or 15, in any place. -/
theorem test_wf_refuses_pc_operand :
    (Instr.mv 0 14).wf = false ∧ (Instr.mv 15 0).wf = false ∧ (Instr.beqRegisterRel 1 14 0).wf = false ∧
      (Form.move 0 14).namesPc = true := by
  decide

/-- R109 (b): push and pop of R12. -/
theorem test_wf_refuses_push_pop_sp :
    (Instr.push 12).wf = false ∧ (Instr.pop 12).wf = false ∧ (Form.push 12).stacksSp = true := by
  decide

/-- R109 (c): a flag-writing instruction with destination R13. -/
theorem test_wf_refuses_flags_into_r13 :
    (Instr.addRegister 13 1).wf = false ∧ (Instr.inc 13).wf = false ∧ (Instr.bzRel 13 7).wf = false ∧
      (Form.unary .inc 13).flagsIntoF = true := by
  decide

/-- Admitted: R13 as data, R12 as an operand (30 R109, spec/41_alu.md R131, L23, L24 of the vectors). -/
theorem test_wf_admits :
    (Instr.lsb 13).wf = true ∧ (Instr.lrl 13).wf = true ∧ (Instr.push 13).wf = true ∧
      (Instr.addRegister 12 13).wf = true := by
  decide

/-- FLAG_BIT must be injective (10 R30). -/
theorem test_wf_params :
    referenceParams.wf = true ∧
      ({ referenceParams with flagLayout := { referenceFlagLayout with z := 13 } } : Params).wf = false := by
  decide

/-! ### Decoding: every constructor's word, written out from the spec's encoding -/

/-- What a whole list of words decodes to under the reference parameters. -/
def decoded (ws : List Word) : Option Instr :=
  match decode referenceParams ws with
  | .ok (i, []) => some i
  | _ => none

/-- Why a list of words is no instruction, under the parameters given. -/
def refusedWith (p : Params) (ws : List Word) : Option DecodeError :=
  match decode p ws with
  | .ok _ => none
  | .error e => some e

/-- Encodings of R120. -/
theorem test_decode_ld :
    ([[0x0313, 0xA5C3],
      [0x0323, 0x1234],
      [0x0333, 0x000A, 0xBCDE],
      [0x0343, 0xFFFE],
      [0x0353],
      [0x0363, 0x8004],
      [0x03D3],
      [0x03E3, 0x7FFF]] : List (List Word)).map decoded =
    [some (.ldImmediate 3 0xA5C3),
      some (.ldDirect 3 0x1234),
      some (.ldAbsolute 3 0x0ABCDE),
      some (.ldRelative 3 0xFFFE),
      some (.ldIndirectY 3),
      some (.ldIndexedY 3 0x8004),
      some (.ldIndirectZ 3),
      some (.ldIndexedZ 3 0x7FFF)] := by
  decide

/-- Encodings of R121. -/
theorem test_decode_st :
    ([[0x052C, 0x1234],
      [0x053C, 0x000A, 0xBCDE],
      [0x054C, 0xFFFE],
      [0x055C],
      [0x056C, 0x8004],
      [0x05DC],
      [0x05EC, 0x7FFF]] : List (List Word)).map decoded =
    [some (.stDirect 12 0x1234),
      some (.stAbsolute 12 0x0ABCDE),
      some (.stRelative 12 0xFFFE),
      some (.stIndirectY 12),
      some (.stIndexedY 12 0x8004),
      some (.stIndirectZ 12),
      some (.stIndexedZ 12 0x7FFF)] := by
  decide

/-- Encodings of R122. -/
theorem test_decode_mv :
    ([[0x06C3]] : List (List Word)).map decoded =
    [some (.mv 3 12)] := by
  decide

/-- Encodings of R133. -/
theorem test_decode_add :
    ([[0x40C3],
      [0x4113, 0xA5C3],
      [0x4123, 0x1234],
      [0x4133, 0x000A, 0xBCDE],
      [0x4143, 0xFFFE],
      [0x4153],
      [0x4163, 0x8004],
      [0x41D3],
      [0x41E3, 0x7FFF]] : List (List Word)).map decoded =
    [some (.addRegister 3 12),
      some (.addImmediate 3 0xA5C3),
      some (.addDirect 3 0x1234),
      some (.addAbsolute 3 0x0ABCDE),
      some (.addRelative 3 0xFFFE),
      some (.addIndirectY 3),
      some (.addIndexedY 3 0x8004),
      some (.addIndirectZ 3),
      some (.addIndexedZ 3 0x7FFF)] := by
  decide

/-- Encodings of R135. -/
theorem test_decode_sub :
    ([[0x48C3],
      [0x4913, 0xA5C3],
      [0x4923, 0x1234],
      [0x4933, 0x000A, 0xBCDE],
      [0x4943, 0xFFFE],
      [0x4953],
      [0x4963, 0x8004],
      [0x49D3],
      [0x49E3, 0x7FFF]] : List (List Word)).map decoded =
    [some (.subRegister 3 12),
      some (.subImmediate 3 0xA5C3),
      some (.subDirect 3 0x1234),
      some (.subAbsolute 3 0x0ABCDE),
      some (.subRelative 3 0xFFFE),
      some (.subIndirectY 3),
      some (.subIndexedY 3 0x8004),
      some (.subIndirectZ 3),
      some (.subIndexedZ 3 0x7FFF)] := by
  decide

/-- Encodings of R137. -/
theorem test_decode_and :
    ([[0x50C3],
      [0x5113, 0xA5C3],
      [0x5123, 0x1234],
      [0x5133, 0x000A, 0xBCDE],
      [0x5143, 0xFFFE],
      [0x5153],
      [0x5163, 0x8004],
      [0x51D3],
      [0x51E3, 0x7FFF]] : List (List Word)).map decoded =
    [some (.andRegister 3 12),
      some (.andImmediate 3 0xA5C3),
      some (.andDirect 3 0x1234),
      some (.andAbsolute 3 0x0ABCDE),
      some (.andRelative 3 0xFFFE),
      some (.andIndirectY 3),
      some (.andIndexedY 3 0x8004),
      some (.andIndirectZ 3),
      some (.andIndexedZ 3 0x7FFF)] := by
  decide

/-- Encodings of R138. -/
theorem test_decode_or :
    ([[0x52C3],
      [0x5313, 0xA5C3],
      [0x5323, 0x1234],
      [0x5333, 0x000A, 0xBCDE],
      [0x5343, 0xFFFE],
      [0x5353],
      [0x5363, 0x8004],
      [0x53D3],
      [0x53E3, 0x7FFF]] : List (List Word)).map decoded =
    [some (.orRegister 3 12),
      some (.orImmediate 3 0xA5C3),
      some (.orDirect 3 0x1234),
      some (.orAbsolute 3 0x0ABCDE),
      some (.orRelative 3 0xFFFE),
      some (.orIndirectY 3),
      some (.orIndexedY 3 0x8004),
      some (.orIndirectZ 3),
      some (.orIndexedZ 3 0x7FFF)] := by
  decide

/-- Encodings of R139. -/
theorem test_decode_xor :
    ([[0x54C3],
      [0x5513, 0xA5C3],
      [0x5523, 0x1234],
      [0x5533, 0x000A, 0xBCDE],
      [0x5543, 0xFFFE],
      [0x5553],
      [0x5563, 0x8004],
      [0x55D3],
      [0x55E3, 0x7FFF]] : List (List Word)).map decoded =
    [some (.xorRegister 3 12),
      some (.xorImmediate 3 0xA5C3),
      some (.xorDirect 3 0x1234),
      some (.xorAbsolute 3 0x0ABCDE),
      some (.xorRelative 3 0xFFFE),
      some (.xorIndirectY 3),
      some (.xorIndexedY 3 0x8004),
      some (.xorIndirectZ 3),
      some (.xorIndexedZ 3 0x7FFF)] := by
  decide

/-- Encodings of R134, R136, R140 to R144, R146. -/
theorem test_decode_one_register :
    ([[0x4403],
      [0x4C03],
      [0x5603],
      [0x5803],
      [0x5A03],
      [0x5C03],
      [0x5E03],
      [0x6003]] : List (List Word)).map decoded =
    [some (.inc 3),
      some (.dec 3),
      some (.not 3),
      some (.lsl 3),
      some (.lsr 3),
      some (.lrl 3),
      some (.lrr 3),
      some (.lsb 3)] := by
  decide

/-- Encodings of R161, R162. -/
theorem test_decode_bit_tests :
    ([[0x886C, 0x9ABC],
      [0x8A6C, 0x00FE, 0xDCBA],
      [0x8C6C, 0x9ABC],
      [0x8E6C, 0x00FE, 0xDCBA]] : List (List Word)).map decoded =
    [some (.bbRel 12 6 0x9ABC),
      some (.bbAbs 12 6 0xFEDCBA),
      some (.bnbRel 12 6 0x9ABC),
      some (.bnbAbs 12 6 0xFEDCBA)] := by
  decide

/-- Encodings of R163, R164. -/
theorem test_decode_counting_branches :
    ([[0x9003, 0x9ABC],
      [0x9203, 0x00FE, 0xDCBA],
      [0x9403, 0x9ABC],
      [0x9603, 0x00FE, 0xDCBA]] : List (List Word)).map decoded =
    [some (.bzRel 3 0x9ABC),
      some (.bzAbs 3 0xFEDCBA),
      some (.bnzRel 3 0x9ABC),
      some (.bnzAbs 3 0xFEDCBA)] := by
  decide

/-- Encodings of R166. -/
theorem test_decode_beq :
    ([[0x987C, 0x9ABC],
      [0x991C, 0xA5C3, 0x9ABC],
      [0x992C, 0x1234, 0x9ABC],
      [0x993C, 0x000A, 0xBCDE, 0x9ABC],
      [0x994C, 0xFFFE, 0x9ABC],
      [0x995C, 0x9ABC],
      [0x996C, 0x8004, 0x9ABC],
      [0x99DC, 0x9ABC],
      [0x99EC, 0x7FFF, 0x9ABC],
      [0x9A7C, 0x00FE, 0xDCBA],
      [0x9B1C, 0xA5C3, 0x00FE, 0xDCBA],
      [0x9B2C, 0x1234, 0x00FE, 0xDCBA],
      [0x9B3C, 0x000A, 0xBCDE, 0x00FE, 0xDCBA],
      [0x9B4C, 0xFFFE, 0x00FE, 0xDCBA],
      [0x9B5C, 0x00FE, 0xDCBA],
      [0x9B6C, 0x8004, 0x00FE, 0xDCBA],
      [0x9BDC, 0x00FE, 0xDCBA],
      [0x9BEC, 0x7FFF, 0x00FE, 0xDCBA]] : List (List Word)).map decoded =
    [some (.beqRegisterRel 12 7 0x9ABC),
      some (.beqImmediateRel 12 0xA5C3 0x9ABC),
      some (.beqDirectRel 12 0x1234 0x9ABC),
      some (.beqAbsoluteRel 12 0x0ABCDE 0x9ABC),
      some (.beqRelativeRel 12 0xFFFE 0x9ABC),
      some (.beqIndirectYRel 12 0x9ABC),
      some (.beqIndexedYRel 12 0x8004 0x9ABC),
      some (.beqIndirectZRel 12 0x9ABC),
      some (.beqIndexedZRel 12 0x7FFF 0x9ABC),
      some (.beqRegisterAbs 12 7 0xFEDCBA),
      some (.beqImmediateAbs 12 0xA5C3 0xFEDCBA),
      some (.beqDirectAbs 12 0x1234 0xFEDCBA),
      some (.beqAbsoluteAbs 12 0x0ABCDE 0xFEDCBA),
      some (.beqRelativeAbs 12 0xFFFE 0xFEDCBA),
      some (.beqIndirectYAbs 12 0xFEDCBA),
      some (.beqIndexedYAbs 12 0x8004 0xFEDCBA),
      some (.beqIndirectZAbs 12 0xFEDCBA),
      some (.beqIndexedZAbs 12 0x7FFF 0xFEDCBA)] := by
  decide

/-- Encodings of R167. -/
theorem test_decode_bneq :
    ([[0x9C7C, 0x9ABC],
      [0x9D1C, 0xA5C3, 0x9ABC],
      [0x9D2C, 0x1234, 0x9ABC],
      [0x9D3C, 0x000A, 0xBCDE, 0x9ABC],
      [0x9D4C, 0xFFFE, 0x9ABC],
      [0x9D5C, 0x9ABC],
      [0x9D6C, 0x8004, 0x9ABC],
      [0x9DDC, 0x9ABC],
      [0x9DEC, 0x7FFF, 0x9ABC],
      [0x9E7C, 0x00FE, 0xDCBA],
      [0x9F1C, 0xA5C3, 0x00FE, 0xDCBA],
      [0x9F2C, 0x1234, 0x00FE, 0xDCBA],
      [0x9F3C, 0x000A, 0xBCDE, 0x00FE, 0xDCBA],
      [0x9F4C, 0xFFFE, 0x00FE, 0xDCBA],
      [0x9F5C, 0x00FE, 0xDCBA],
      [0x9F6C, 0x8004, 0x00FE, 0xDCBA],
      [0x9FDC, 0x00FE, 0xDCBA],
      [0x9FEC, 0x7FFF, 0x00FE, 0xDCBA]] : List (List Word)).map decoded =
    [some (.bneqRegisterRel 12 7 0x9ABC),
      some (.bneqImmediateRel 12 0xA5C3 0x9ABC),
      some (.bneqDirectRel 12 0x1234 0x9ABC),
      some (.bneqAbsoluteRel 12 0x0ABCDE 0x9ABC),
      some (.bneqRelativeRel 12 0xFFFE 0x9ABC),
      some (.bneqIndirectYRel 12 0x9ABC),
      some (.bneqIndexedYRel 12 0x8004 0x9ABC),
      some (.bneqIndirectZRel 12 0x9ABC),
      some (.bneqIndexedZRel 12 0x7FFF 0x9ABC),
      some (.bneqRegisterAbs 12 7 0xFEDCBA),
      some (.bneqImmediateAbs 12 0xA5C3 0xFEDCBA),
      some (.bneqDirectAbs 12 0x1234 0xFEDCBA),
      some (.bneqAbsoluteAbs 12 0x0ABCDE 0xFEDCBA),
      some (.bneqRelativeAbs 12 0xFFFE 0xFEDCBA),
      some (.bneqIndirectYAbs 12 0xFEDCBA),
      some (.bneqIndexedYAbs 12 0x8004 0xFEDCBA),
      some (.bneqIndirectZAbs 12 0xFEDCBA),
      some (.bneqIndexedZAbs 12 0x7FFF 0xFEDCBA)] := by
  decide

/-- Encodings of R168. -/
theorem test_decode_bgt :
    ([[0xA07C, 0x9ABC],
      [0xA11C, 0xA5C3, 0x9ABC],
      [0xA12C, 0x1234, 0x9ABC],
      [0xA13C, 0x000A, 0xBCDE, 0x9ABC],
      [0xA14C, 0xFFFE, 0x9ABC],
      [0xA15C, 0x9ABC],
      [0xA16C, 0x8004, 0x9ABC],
      [0xA1DC, 0x9ABC],
      [0xA1EC, 0x7FFF, 0x9ABC],
      [0xA27C, 0x00FE, 0xDCBA],
      [0xA31C, 0xA5C3, 0x00FE, 0xDCBA],
      [0xA32C, 0x1234, 0x00FE, 0xDCBA],
      [0xA33C, 0x000A, 0xBCDE, 0x00FE, 0xDCBA],
      [0xA34C, 0xFFFE, 0x00FE, 0xDCBA],
      [0xA35C, 0x00FE, 0xDCBA],
      [0xA36C, 0x8004, 0x00FE, 0xDCBA],
      [0xA3DC, 0x00FE, 0xDCBA],
      [0xA3EC, 0x7FFF, 0x00FE, 0xDCBA]] : List (List Word)).map decoded =
    [some (.bgtRegisterRel 12 7 0x9ABC),
      some (.bgtImmediateRel 12 0xA5C3 0x9ABC),
      some (.bgtDirectRel 12 0x1234 0x9ABC),
      some (.bgtAbsoluteRel 12 0x0ABCDE 0x9ABC),
      some (.bgtRelativeRel 12 0xFFFE 0x9ABC),
      some (.bgtIndirectYRel 12 0x9ABC),
      some (.bgtIndexedYRel 12 0x8004 0x9ABC),
      some (.bgtIndirectZRel 12 0x9ABC),
      some (.bgtIndexedZRel 12 0x7FFF 0x9ABC),
      some (.bgtRegisterAbs 12 7 0xFEDCBA),
      some (.bgtImmediateAbs 12 0xA5C3 0xFEDCBA),
      some (.bgtDirectAbs 12 0x1234 0xFEDCBA),
      some (.bgtAbsoluteAbs 12 0x0ABCDE 0xFEDCBA),
      some (.bgtRelativeAbs 12 0xFFFE 0xFEDCBA),
      some (.bgtIndirectYAbs 12 0xFEDCBA),
      some (.bgtIndexedYAbs 12 0x8004 0xFEDCBA),
      some (.bgtIndirectZAbs 12 0xFEDCBA),
      some (.bgtIndexedZAbs 12 0x7FFF 0xFEDCBA)] := by
  decide

/-- Encodings of R169. -/
theorem test_decode_bge :
    ([[0xA47C, 0x9ABC],
      [0xA51C, 0xA5C3, 0x9ABC],
      [0xA52C, 0x1234, 0x9ABC],
      [0xA53C, 0x000A, 0xBCDE, 0x9ABC],
      [0xA54C, 0xFFFE, 0x9ABC],
      [0xA55C, 0x9ABC],
      [0xA56C, 0x8004, 0x9ABC],
      [0xA5DC, 0x9ABC],
      [0xA5EC, 0x7FFF, 0x9ABC],
      [0xA67C, 0x00FE, 0xDCBA],
      [0xA71C, 0xA5C3, 0x00FE, 0xDCBA],
      [0xA72C, 0x1234, 0x00FE, 0xDCBA],
      [0xA73C, 0x000A, 0xBCDE, 0x00FE, 0xDCBA],
      [0xA74C, 0xFFFE, 0x00FE, 0xDCBA],
      [0xA75C, 0x00FE, 0xDCBA],
      [0xA76C, 0x8004, 0x00FE, 0xDCBA],
      [0xA7DC, 0x00FE, 0xDCBA],
      [0xA7EC, 0x7FFF, 0x00FE, 0xDCBA]] : List (List Word)).map decoded =
    [some (.bgeRegisterRel 12 7 0x9ABC),
      some (.bgeImmediateRel 12 0xA5C3 0x9ABC),
      some (.bgeDirectRel 12 0x1234 0x9ABC),
      some (.bgeAbsoluteRel 12 0x0ABCDE 0x9ABC),
      some (.bgeRelativeRel 12 0xFFFE 0x9ABC),
      some (.bgeIndirectYRel 12 0x9ABC),
      some (.bgeIndexedYRel 12 0x8004 0x9ABC),
      some (.bgeIndirectZRel 12 0x9ABC),
      some (.bgeIndexedZRel 12 0x7FFF 0x9ABC),
      some (.bgeRegisterAbs 12 7 0xFEDCBA),
      some (.bgeImmediateAbs 12 0xA5C3 0xFEDCBA),
      some (.bgeDirectAbs 12 0x1234 0xFEDCBA),
      some (.bgeAbsoluteAbs 12 0x0ABCDE 0xFEDCBA),
      some (.bgeRelativeAbs 12 0xFFFE 0xFEDCBA),
      some (.bgeIndirectYAbs 12 0xFEDCBA),
      some (.bgeIndexedYAbs 12 0x8004 0xFEDCBA),
      some (.bgeIndirectZAbs 12 0xFEDCBA),
      some (.bgeIndexedZAbs 12 0x7FFF 0xFEDCBA)] := by
  decide

/-- Encodings of R171, R172, R173, R177. -/
theorem test_decode_jumps_and_returns :
    ([[0xA800, 0x9ABC],
      [0xAA00, 0x00FE, 0xDCBA],
      [0xAC00, 0x9ABC],
      [0xAE00, 0x00FE, 0xDCBA],
      [0xB000],
      [0xB400]] : List (List Word)).map decoded =
    [some (.jmpRel 0x9ABC),
      some (.jmpAbs 0xFEDCBA),
      some (.jmsRel 0x9ABC),
      some (.jmsAbs 0xFEDCBA),
      some (.ret),
      some (.reti)] := by
  decide

/-- Encodings of R190, R191, R193 to R196. -/
theorem test_decode_other :
    ([[0xC003],
      [0xC203],
      [0xC463],
      [0xC663],
      [0xFEFF],
      [0xFFFF]] : List (List Word)).map decoded =
    [some (.push 3),
      some (.pop 3),
      some (.sb 3 6),
      some (.rb 3 6),
      some (.hlt),
      some (.nop)] := by
  decide

/-- Words that are no instruction: L26, L25, O19, T12, T13, T14, L10, J5, O16, O18, B17, T17, J6. -/
theorem test_reserved_words :
    ([[0x0000], [0x4500], [0xC103], [0x0300], [0x0370], [0x0511, 0x0000], [0x5617], [0xA801, 0x0004], [0xFE00],
      [0xFF00], [0x9010, 0x0007], [0x0531, 0x0108, 0x0100], [0xAA00, 0x0102, 0x0000]] :
        List (List Word)).map (refusedWith referenceParams) =
    [some .undefinedOpcode, some .undefinedOpcode, some .undefinedOpcode, some .reservedMode, some .reservedMode,
      some .reservedMode, some .mustBeZero, some .mustBeZero, some .mustBeZero, some .mustBeZero, some .mustBeZero,
      some .addressJunk, some .addressJunk] := by
  decide

/-- The other parameter values: lenient decoding (L10, J6), low word first, target words first (30 R104, R107, R108). -/
def otherParams : Params :=
  { referenceParams with
    strictDecode := false
    instrOrder := .lowFirst
    vectorOrder := .lowFirst
    stackOrder := .lowFirst
    extOrder := .targetFirst
    stack := .decrementThenWrite
    bitSelect := .figure
    subCarry := .notBorrow
    cmpSigned := true
    flashStore := .ignore
    memMap := [{ first := 0, last := 0xFFFF, kind := .ram }] }

theorem test_decode_other_parameters :
    (decode otherParams [0x5617] = .ok (.not 7, [])) ∧
      (decode otherParams [0xAA00, 0x0000, 0x0102] = .ok (.jmpAbs 0x020000, [])) ∧
      (decode otherParams [0x9911, 0x0006, 0x0005] = .ok (.beqImmediateRel 1 0x0005 0x0006, [])) :=
  ⟨rfl, rfl, rfl⟩

/-- The numbering of spec/opcode_table.json: the first word in bits 15 to 0. -/
theorem test_decodeTableWord :
    decodeTableWord 48 0x0F0F000F0330 = some (.ldAbsolute 0 0x0F0F0F) ∧ decodeTableWord 16 0x0000 = none ∧
      decodeTableWord 16 0x9821 = some (.beqRegisterRel 1 2 0) := by
  decide

/-! ### One step (the vectors of spec/95_test_vectors.md, section 2) -/

/-- A machine past reset, at address 080000 with F = 0000, as the vectors start. -/
def base : State := { State.reset with resetAsserted := false, pc := 0x080000 }

/-- Words placed at the program counter. -/
def State.code (ws : List Word) (s : State) : State := { s with mem := loadWords ws s.pc s.mem }

/-- Words placed elsewhere. -/
def State.data (l : List (Addr × Word)) (s : State) : State :=
  { s with mem := l.foldl (fun m x => m.writeWord x.1 x.2) s.mem }

/-- Registers given values. -/
def State.with (l : List (Reg × Word)) (s : State) : State := l.foldl (fun t x => t.writeReg x.1 x.2) s

/-- What holds of the state after one step. -/
def after {α : Type} (s : State) (f : State → α) : Option α :=
  match step s with
  | .next t => some (f t)
  | _ => none

/-- Why a step stopped. -/
def stopped (s : State) : Option Stop :=
  match step s with
  | .next _ => none
  | .fault r => some (.fault r)
  | .refused r => some (.refused r)

/-- A register, the program counter and R13 after a step. -/
def result (r : Reg) (t : State) : Word × Addr × Word := (t.readReg r, t.pc, t.readReg 13)

/-- T3. -/
theorem test_ld_absolute :
    after (State.code [0x0330, 0x000F, 0x0F0F] (State.data [(0x0F0F0F, 0xBBBB)] base)) (result 0) =
      some (0xBBBB, 0x080003, 0) := by
  decide

/-- T5: the relative address crosses a segment downwards. -/
theorem test_ld_relative :
    after (State.code [0x0345, 0xFFFF] (State.data [(0x07FFFF, 0x1111)] base)) (result 5) =
      some (0x1111, 0x080002, 0) := by
  decide

/-- T8: the offset carries into the segment byte. -/
theorem test_ld_indexedY :
    after (State.code [0x0360, 0x0004]
      (State.data [(0x0A0002, 0x2222)] (State.with [(8, 0xFFFE), (9, 0xAB09)] base))) (result 0) =
      some (0x2222, 0x080002, 0) := by
  decide

/-- T10: the address is formed from the old R08. -/
theorem test_ld_destination_is_address :
    after (State.code [0x0358] (State.data [(0x090010, 0x4444)] (State.with [(8, 0x0010), (9, 0x0009)] base)))
      (result 8) = some (0x4444, 0x080001, 0) := by
  decide

/-- T11: R13 takes every bit but I2, I1, I0. -/
theorem test_ld_flag_register :
    after (State.code [0x031D, 0xFFFF] base) (result 13) = some (0xFFC7, 0x080002, 0xFFC7) := by
  decide

/-- T2, in the Direct mode: the segment is that of PC0. -/
theorem test_ld_direct :
    after (State.code [0x0320, 0x0F0F] (State.data [(0x080F0F, 0xAAAA)] base)) (result 0) =
      some (0xAAAA, 0x080002, 0) := by
  decide

/-- T15. -/
theorem test_st_direct :
    after (State.code [0x0521, 0x0100] (State.with [(1, 0x1234)] base)) (fun t => (t.mem.readWord 0x080100, t.pc)) =
      some (some 0x1234, 0x080002) := by
  decide

/-- T18. -/
theorem test_st_indirectZ :
    after (State.code [0x05D1] (State.with [(1, 0x1234), (10, 0x0002), (11, 0x000A)] base))
      (fun t => (t.mem.readWord 0x0A0002, t.pc)) = some (some 0x1234, 0x080001) := by
  decide

/-- 20 R55: a store to flash is refused. -/
theorem test_st_flash :
    stopped (State.code [0x0531, 0x0002, 0x0000] base) = some (.refused (.flashStore 0x020000)) := by
  decide

/-- 20 R55, R62: a store to segment 1 is an event. -/
theorem test_st_device :
    after (State.code [0x0531, 0x0001, 0x0203] (State.with [(1, 0x1234)] base)) (fun t => t.events) =
      some [.deviceWrite 0x010203 0x1234] := by
  decide

/-- T20. -/
theorem test_mv :
    after (State.code [0x0613] (State.with [(1, 0xBEEF)] base)) (result 3) = some (0xBEEF, 0x080001, 0) := by
  decide

/-- T21. -/
theorem test_mv_pc_refused : stopped (State.code [0x06E0] base) = some (.refused .pcOperand) := by
  decide

/-- A2, A3, A4, A8. -/
theorem test_add_flags :
    ([(0xFFFF, 0x0001), (0x7FFF, 0x0001), (0x8000, 0x8000), (0x8000, 0xFFFF)] : List (Word × Word)).map (fun x =>
      after (State.code [0x4010] (State.with [(0, x.1), (1, x.2)] base)) (result 0)) =
    [some (0x0000, 0x080001, 0xBC00), some (0x8000, 0x080001, 0x1D80), some (0x0000, 0x080001, 0xA080),
      some (0x7FFF, 0x080001, 0x2080)] := by
  decide

/-- A15: R13 is read before the flags are written. -/
theorem test_add_from_flags :
    after (State.code [0x40D0] (State.with [(0, 0x0001), (13, 0x8000)] base)) (result 0) =
      some (0x8001, 0x080001, 0x0100) := by
  decide

/-- A16, A18. -/
theorem test_inc :
    ([0x000F, 0x7FFF] : List Word).map (fun x =>
      after (State.code [0x4405] (State.with [(5, x)] base)) (result 5)) =
    [some (0x0010, 0x080001, 0x1000), some (0x8000, 0x080001, 0x1D80)] := by
  decide

/-- A20. -/
theorem test_inc_flags_refused :
    stopped (State.code [0x440D] base) = some (.refused .flagRegisterDestination) := by
  decide

/-- S2, S3, S5, S8. -/
theorem test_sub_flags :
    ([(0x0000, 0x0001), (0x8000, 0x0001), (0x0100, 0x0001), (0x7FFF, 0xFFFF)] : List (Word × Word)).map (fun x =>
      after (State.code [0x4832] (State.with [(2, x.1), (3, x.2)] base)) (result 2)) =
    [some (0xFFFF, 0x080001, 0x3D00), some (0x7FFF, 0x080001, 0x1C80), some (0x00FF, 0x080001, 0x1800),
      some (0x8000, 0x080001, 0x2180)] := by
  decide

/-- S2 under `not_borrow`: the four carries inverted. -/
theorem test_sub_not_borrow :
    after (State.code [0x4832] (State.with [(3, 1)]
      { base with params := { referenceParams with subCarry := .notBorrow } })) (result 2) =
      some (0xFFFF, 0x080001, 0x0100) := by
  decide

/-- S12, S13, S15. -/
theorem test_dec :
    ([0x0010, 0x0000, 0x8000] : List Word).map (fun x =>
      after (State.code [0x4C01] (State.with [(1, x)] base)) (result 1)) =
    [some (0x000F, 0x080001, 0x1000), some (0xFFFF, 0x080001, 0x3D00), some (0x7FFF, 0x080001, 0x1C80)] := by
  decide

/-- L1: every flag but Z stays. -/
theorem test_and :
    after (State.code [0x5010] (State.with [(0, 0xFF00), (1, 0x0FF0), (13, 0xFFC0)] base)) (result 0) =
      some (0x0F00, 0x080001, 0x7FC0) := by
  decide

/-- L4. -/
theorem test_or :
    after (State.code [0x5320, 0x0F0F] (State.data [(0x080F0F, 0x0F00)] (State.with [(0, 0x00F0)] base))) (result 0) =
      some (0x0FF0, 0x080002, 0) := by
  decide

/-- L6, L7. -/
theorem test_xor :
    after (State.code [0x5444] (State.with [(4, 0xABCD)] base)) (result 4) = some (0x0000, 0x080001, 0x8000) ∧
    after (State.code [0x5410] (State.with [(0, 0xFFFF), (1, 0x0F0F)] base)) (result 0) =
      some (0xF0F0, 0x080001, 0) := by
  decide

/-- L8, L9. -/
theorem test_not :
    ([0x00FF, 0xFFFF] : List Word).map (fun x =>
      after (State.code [0x5607] (State.with [(7, x)] base)) (result 7)) =
    [some (0xFF00, 0x080001, 0), some (0x0000, 0x080001, 0x8000)] := by
  decide

/-- L11, L12, L13. -/
theorem test_lsl :
    ([(0x8001, 0), (0x8000, 0), (0x0000, 0x2000)] : List (Word × Word)).map (fun x =>
      after (State.code [0x5800] (State.with [(0, x.1), (13, x.2)] base)) (result 0)) =
    [some (0x0002, 0x080001, 0x2000), some (0x0000, 0x080001, 0xA000), some (0x0001, 0x080001, 0)] := by
  decide

/-- L15, L16, L17. -/
theorem test_lsr :
    ([(0x0001, 0), (0x0000, 0x2000), (0x8002, 0)] : List (Word × Word)).map (fun x =>
      after (State.code [0x5A00] (State.with [(0, x.1), (13, x.2)] base)) (result 0)) =
    [some (0x0000, 0x080001, 0xA000), some (0x8000, 0x080001, 0), some (0x4001, 0x080001, 0)] := by
  decide

/-- L18, L24. -/
theorem test_lrl :
    after (State.code [0x5C01] (State.with [(1, 0x8001), (13, 0xFFC0)] base)) (result 1) =
      some (0x0003, 0x080001, 0xFFC0) ∧
    after (State.code [0x5C0D] (State.with [(13, 0x8000)] base)) (result 13) = some (0x0001, 0x080001, 0x0001) := by
  decide

/-- L20, L21. -/
theorem test_lrr :
    ([0x0003, 0x0001] : List Word).map (fun x =>
      after (State.code [0x5E01] (State.with [(1, x)] base)) (result 1)) =
    [some (0x8001, 0x080001, 0), some (0x8000, 0x080001, 0)] := by
  decide

/-- L22, L23. -/
theorem test_lsb :
    after (State.code [0x6002] (State.with [(2, 0x12AB)] base)) (result 2) = some (0xAB12, 0x080001, 0) ∧
    after (State.code [0x600D] (State.with [(13, 0x0140)] base)) (result 13) = some (0x4001, 0x080001, 0x4001) := by
  decide

/-- B5, B6: the tested bit is Z itself, read before it is written. -/
theorem test_bb_tests_z :
    ([0x8000, 0] : List Word).map (fun x =>
      after (State.code [0x88FD, 0x0010] (State.with [(13, x)] base)) (result 13)) =
    [some (0, 0x080010, 0), some (0x8000, 0x080002, 0x8000)] := by
  decide

/-- B7: backward across a segment. -/
theorem test_bb_backward :
    after (State.code [0x88F0, 0xFFF0] (State.with [(0, 0x8000)] base)) (result 0) = some (0x8000, 0x07FFF0, 0) := by
  decide

/-- B8, B9, B10. -/
theorem test_bnb :
    ([0x0002, 0x0003] : List Word).map (fun x =>
      after (State.code [0x8C00, 0x0010] (State.with [(0, x)] base)) (result 0)) =
    [some (0x0002, 0x080010, 0x8000), some (0x0003, 0x080002, 0)] ∧
    after (State.code [0x8E10, 0x0002, 0x0040] (State.with [(0, 0xFFFD)] base)) (result 0) =
      some (0xFFFD, 0x020040, 0x8000) := by
  decide

/-- B11, B12. -/
theorem test_bz_decrements :
    ([(0x0003, 0xFFC0), (0x0001, 0)] : List (Word × Word)).map (fun x =>
      after (State.code [0x9000, 0x0007] (State.with [(0, x.1), (13, x.2)] base)) (result 0)) =
    [some (0x0002, 0x080002, 0x5EC0), some (0x0000, 0x080002, 0x8000)] := by
  decide

/-- B13, B15: taken on zero; the flags are free values and are not asked about. -/
theorem test_bz_zero :
    after (State.code [0x9000, 0x0007] base) (fun t => (t.readReg 0, t.pc, t.draws)) = some (0, 0x080007, 3) ∧
    after (State.code [0x9202, 0x0008, 0x0100] base) (fun t => (t.readReg 2, t.pc)) = some (0, 0x080100) := by
  decide

/-- B20, B22. -/
theorem test_bnz :
    after (State.code [0x9401, 0xFFFF] (State.with [(1, 0x0001)] base)) (result 1) = some (0, 0x07FFFF, 0x8000) ∧
    after (State.code [0x9601, 0x0008, 0x0000] (State.with [(1, 0xFFFF)] base)) (result 1) =
      some (0xFFFE, 0x080000, 0x0100) := by
  decide

/-- B21. -/
theorem test_bnz_zero :
    after (State.code [0x9401, 0xFFFF] base) (fun t => (t.readReg 1, t.pc)) = some (0, 0x080002) := by
  decide

/-- K5, K6: the five-word form. -/
theorem test_beq_five_words :
    ([0xAAAA, 0xAAAB] : List Word).map (fun x =>
      after (State.code [0x9B31, 0x0009, 0x0010, 0x0008, 0x0200]
        (State.data [(0x090010, 0xAAAA)] (State.with [(1, x)] base))) (result 1)) =
    [some (0xAAAA, 0x080200, 0), some (0xAAAB, 0x080005, 0)] := by
  decide

/-- K4: falling through goes to PC0 + L. -/
theorem test_beq_falls_through :
    after (State.code [0x9911, 0x0005, 0x0006] (State.with [(1, 0x0004)] base)) (result 1) =
      some (0x0004, 0x080003, 0) := by
  decide

/-- K9, K10. -/
theorem test_bneq :
    ([0x0001, 0x0002] : List Word).map (fun x =>
      after (State.code [0x9E30, 0x0008, 0x0010] (State.with [(0, x), (3, 0x0002)] base)) (result 0)) =
    [some (0x0001, 0x080010, 0), some (0x0002, 0x080003, 0)] := by
  decide

/-- K12, K13, K14, K15. -/
theorem test_bgt :
    ([(7, 3), (3, 3), (3, 7), (0x8000, 1)] : List (Word × Word)).map (fun x =>
      after (State.code [0xA021, 0x0004] (State.with [(1, x.1), (2, x.2)] base)) (fun t => t.pc)) =
    [some 0x080004, some 0x080002, some 0x080002, some 0x080004] := by
  decide

/-- K15 and K20 with CMP_SIGNED true. -/
theorem test_signed_order :
    after (State.code [0xA021, 0x0004] (State.with [(1, 0x8000), (2, 1)]
      { base with params := { referenceParams with cmpSigned := true } })) (fun t => t.pc) = some 0x080002 ∧
    after (State.code [0xA621, 0x0008, 0x0400] (State.with [(1, 0xFFFF), (2, 0)]
      { base with params := { referenceParams with cmpSigned := true } })) (fun t => t.pc) = some 0x080003 := by
  decide

/-- K17, K18, K21. -/
theorem test_bge :
    after (State.code [0xA421, 0x0004] (State.with [(1, 3), (2, 3)] base)) (fun t => t.pc) = some 0x080004 ∧
    after (State.code [0xA421, 0x0004] (State.with [(1, 2), (2, 3)] base)) (fun t => t.pc) = some 0x080002 ∧
    after (State.code [0xA7E1, 0x0002, 0x0008, 0x0400]
      (State.data [(0x080012, 5)] (State.with [(1, 1), (10, 0x0010), (11, 0x0008)] base))) (fun t => t.pc) =
      some 0x080004 := by
  decide

/-- J1, J3, J4. -/
theorem test_jmp :
    after (State.code [0xA800, 0xFFFE] base) (fun t => t.pc) = some 0x07FFFE ∧
    after (State.code [0xAA00, 0x0002, 0x0000] base) (fun t => t.pc) = some 0x020000 ∧
    after (State.code [0xA800, 0x0004] { base with pc := 0xFFFFFE }) (fun t => t.pc) = some 0x000002 := by
  decide

/-- J7. -/
theorem test_jms_relative :
    after (State.code [0xAC00, 0x0010] { base with pc := 0x080003 })
      (fun t => (t.mem.readWord 0x00FFFF, t.mem.readWord 0x00FFFE, t.sp, t.pc)) =
      some (some 0x0008, some 0x0005, 0xFFFD, 0x080013) := by
  decide

/-- J8. -/
theorem test_jms_absolute :
    after (State.code [0xAE00, 0x0002, 0x0100] (State.with [(12, 0xFFFD)] { base with pc := 0x0A1234 }))
      (fun t => (t.mem.readWord 0x00FFFD, t.mem.readWord 0x00FFFC, t.sp, t.pc)) =
      some (some 0x000A, some 0x1237, 0xFFFB, 0x020100) := by
  decide

/-- J10, J11. -/
theorem test_ret :
    after (State.code [0xB000] (State.data [(0x00FFFE, 0x0005), (0x00FFFF, 0xAB08)] (State.with [(12, 0xFFFD)] base)))
      (fun t => (t.sp, t.pc)) = some (0xFFFF, 0x080005) ∧
    after (State.code [0xB000] (State.data [(0x000000, 0x0005), (0x000001, 0x0008)] base))
      (fun t => (t.sp, t.pc)) = some (0x0001, 0x080005) := by
  decide

/-- O1, O2. -/
theorem test_push :
    ([0xFFFF, 0x0000] : List Word).map (fun x =>
      after (State.code [0xC003] (State.with [(3, 0xABCD), (12, x)] base))
        (fun t => (t.mem.readWord (stackAddr x), t.sp, t.pc))) =
    [some (some 0xABCD, 0xFFFE, 0x080001), some (some 0xABCD, 0xFFFF, 0x080001)] := by
  decide

/-- O4. -/
theorem test_push_sp_refused : stopped (State.code [0xC00C] base) = some (.refused .stackPointerOperand) := by
  decide

/-- O6, O7. -/
theorem test_pop :
    after (State.code [0xC20D] (State.data [(0x00FFFF, 0xFFFF)] (State.with [(12, 0xFFFE)] base))) (result 13) =
      some (0xFFC7, 0x080001, 0xFFC7) ∧
    after (State.code [0xC204] (State.data [(0x000000, 0x1111)] base)) (fun t => (t.readReg 4, t.sp)) =
      some (0x1111, 0x0000) := by
  decide

/-- O8, O9, O10. -/
theorem test_sb :
    after (State.code [0xC46D] base) (result 13) = some (0x0040, 0x080001, 0x0040) ∧
    after (State.code [0xC4F0] (State.with [(0, 0x0001)] base)) (result 0) = some (0x8001, 0x080001, 0) ∧
    after (State.code [0xC44D] base) (result 13) = some (0, 0x080001, 0) := by
  decide

/-- O13, O14. -/
theorem test_rb :
    after (State.code [0xC601] (State.with [(1, 0x00FF)] base)) (result 1) = some (0x00FE, 0x080001, 0) ∧
    after (State.code [0xC6DD] (State.with [(13, 0xFFC0)] base)) (result 13) = some (0xDFC0, 0x080001, 0xDFC0) := by
  decide

/-- O15. -/
theorem test_hlt :
    after (State.code [0xFEFF] { base with pc := 0x080010 }) (fun t => (t.pc, t.halted)) = some (0x080011, true) := by
  decide

/-- O17. -/
theorem test_nop : after (State.code [0xFFFF] base) (result 0) = some (0, 0x080001, 0) := by
  decide

/-- O16, L26: no instruction. -/
theorem test_reserved_step :
    stopped (State.code [0xFE00] base) = some (.fault (.reservedInstruction 0xFE00 .mustBeZero)) ∧
    stopped (State.code [0x0000] base) = some (.fault (.reservedInstruction 0x0000 .undefinedOpcode)) := by
  decide

/-! ### Interrupts and reset (spec/95_test_vectors.md, sections 4 and 5) -/

/-- The start of the interrupt trace: R00 to R11 = 1100 to 110B, F = 8040, the two vectors. -/
def traceStart : State :=
  State.data [(0x000006, 0x0002), (0x000007, 0x0100), (0x00000A, 0x0002), (0x00000B, 0x0200)]
    (State.with [(0, 0x1100), (1, 0x1101), (2, 0x1102), (3, 0x1103), (4, 0x1104), (5, 0x1105), (6, 0x1106), (7, 0x1107),
      (8, 0x1108), (9, 0x1109), (10, 0x110A), (11, 0x110B), (13, 0x8040)] { base with pc := 0x080020 })

/-- Step 1: a request shows in R13. -/
theorem test_request_shows : (traceStart.arrive .irq3).readReg 13 = 0x8058 := by
  decide

/-- Step 2: entry. -/
theorem test_interrupt_entry :
    after (traceStart.arrive .irq3) (fun t => (t.pc, t.sp, t.readReg 13, t.irq)) =
      some (0x020100, 0xFFF0, 0x8000, []) ∧
    after (traceStart.arrive .irq3) (fun t =>
      [0x00FFFF, 0x00FFFE, 0x00FFFD, 0x00FFF2, 0x00FFF1].map t.mem.readWord) =
      some [some 0x0008, some 0x0020, some 0x1100, some 0x110B, some 0x8040] := by
  decide

/-- Step 5: reti chains to the next handler. -/
theorem test_reti_chains :
    after (State.code [0xB400] { traceStart with irq := [.irq5], flags := 0, pc := 0x020101 })
      (fun t => (t.pc, t.sp, t.irq)) = some (0x020200, 0xFFFF, []) := by
  decide

/-- Step 7: reti restores a frame. -/
theorem test_reti_restores :
    after (State.code [0xB400] (State.data ([(0x00FFFF, 0x0008), (0x00FFFE, 0x0020), (0x00FFFD, 0x1100),
      (0x00FFFC, 0x1101), (0x00FFFB, 0x1102), (0x00FFFA, 0x1103), (0x00FFF9, 0x1104), (0x00FFF8, 0x1105),
      (0x00FFF7, 0x1106), (0x00FFF6, 0x1107), (0x00FFF5, 0x1108), (0x00FFF4, 0x1109), (0x00FFF3, 0x110A),
      (0x00FFF2, 0x110B), (0x00FFF1, 0x8040)] : List (Addr × Word))
      (State.with [(12, 0xFFF0)] { base with pc := 0x020201 })))
      (fun t => (t.pc, t.sp, t.readReg 13, t.readReg 0, t.readReg 11)) =
      some (0x080020, 0xFFFF, 0x8040, 0x1100, 0x110B) := by
  decide

/-- The variants: with IE = 0 a halted machine stays; the fifth request is lost. -/
theorem test_no_wake_and_lost_request :
    after { traceStart with flags := 0x8000, halted := true, irq := [.irq3] } (fun t => (t.halted, t.irq, t.pc)) =
      some (true, [.irq3], 0x080020) ∧
    (((((base.arrive .irq1).arrive .irq2).arrive .irq3).arrive .irq4).arrive .irq5).irq =
      [.irq1, .irq2, .irq3, .irq4] := by
  decide

/-- Section 5: the reset vector; from the bare reset state there is no vector and no successor (70 R233). -/
theorem test_reset :
    after (State.data [(0, 0x0002), (1, 0x0000)] State.reset) (fun t => (t.pc, t.irq, t.halted, t.flag .ie)) =
      some (0x020000, [], false, false) ∧
    stopped State.reset = some (.fault (.unwritten 0)) := by
  decide

/-- An input is taken before the boundary: a reset asserted with a request waiting resets (00 R12). -/
theorem test_inputs :
    after { State.data [(0, 0x0002), (1, 0x0000)] base with inputs := [[.irq .irq2, .reset]] }
      (fun t => (t.pc, t.irq, t.inputs)) = some (0x020000, [], []) := by
  decide

/-- withFetchWord from reset: the next step runs the word (log entry 20). -/
theorem test_withFetchWord :
    after (State.reset.withFetchWord 16 0x4405) (fun t => (t.readReg 5, t.pc)) = some (1, 0x000001) := by
  decide

/-- The canonical form of memory: rising whole words are it; a lone half, or a falling list, is not (log entry 18). -/
theorem test_memory_wf :
    Memory.wf [(2, 0x11), (3, 0x22)] = true ∧ Memory.wf [(2, 0x11)] = false ∧
      Memory.wf [(3, 0x22), (2, 0x11)] = false := by
  decide

/-! ### Witnesses: each shows values that meet all the hypotheses of one clause of a statement -/

/-- An outcome with a next state. -/
def goesOn (o : Host.Outcome State Fault Refusal) : Bool :=
  match o with
  | .next _ => true
  | _ => false

/-- A map in which one word answers as each kind, and 000004 on as nothing. -/
def tinyMap : List Region :=
  [ { first := 0, last := 1, kind := .ram }, { first := 2, last := 2, kind := .device },
    { first := 3, last := 3, kind := .flash } ]

/-- The tiny map, with R08 to R11 pointing at the address given and stores to flash treated as given. -/
def tiny (a : Word) (f : FlashStore) : State :=
  { State.with [(8, a), (9, 0), (10, a), (11, 0)] base with params := { referenceParams with memMap := tinyMap, flashStore := f } }

theorem witness_decodeThenEncode :
    referenceParams.strictDecode = true ∧
      decode referenceParams [0x9B31, 0x0009, 0x0010, 0x00FF, 0xFFFF, 0xFFFF] =
        .ok (.beqAbsoluteAbs 1 0x090010 0xFFFFFF, [0xFFFF]) :=
  ⟨rfl, rfl⟩

/-- Length 1 and length 5, with two continuations each. -/
theorem witness_firstWordFixesTheLength :
    (decode referenceParams [0xFFFF] = .ok (.nop, []) ∧ decode referenceParams [0xFFFF, 1] = .ok (.nop, [1])) ∧
      decode referenceParams [0x9B31, 9, 0, 8, 0] = .ok (.beqAbsoluteAbs 1 0x090000 0x080000, []) ∧
      decode referenceParams [0x9B31, 9, 1, 8, 0, 7] = .ok (.beqAbsoluteAbs 1 0x090001 0x080000, [7]) :=
  ⟨⟨rfl, rfl⟩, rfl, rfl⟩

/-- A base state with one word at the program counter. -/
def at1 (w : Word) : State := State.code [w] base

/-- The two bytes next to a defined one, and a defined one. -/
theorem witness_undefinedUpperByteFaults :
    ((at1 0x0200).fetching = true ∧ (at1 0x0200).holds (at1 0x0200).pc 0x0200 = true) ∧
      ((at1 0xFDFF).fetching = true ∧ (at1 0xFDFF).holds (at1 0xFDFF).pc 0xFDFF = true) ∧
      (at1 0x0310).fetching = true ∧ (at1 0x0310).holds (at1 0x0310).pc 0x0310 = true := by
  decide

/-- An unassigned code in the first and the last upper byte, and st with the Immediate code. -/
theorem witness_reservedModesFault :
    ([0x0300, 0xA7FF, 0x0511] : List Word).all (fun w =>
      (at1 w).fetching && (at1 w).holds (at1 w).pc w &&
        [0x03, 0x05, 0x41, 0x49, 0x51, 0x53, 0x55, 0x99, 0x9B, 0x9D, 0x9F, 0xA1, 0xA3, 0xA5, 0xA7].contains
          (w.toNat / 256) &&
        ([0b0000, 0b0111, 0b1000, 0b1001, 0b1010, 0b1011, 0b1100, 0b1111].contains (w.toNat / 16 % 16) ||
          (w.toNat / 256 == 0x05 && w.toNat / 16 % 16 == 0b0001))) = true := by
  decide

/-- One word for each of the three strict cases. -/
theorem witness_mustBeZeroBits_strict :
    ([0x4410, 0xA801, 0xFFFE] : List Word).all (fun w =>
      (at1 w).fetching && (at1 w).holds (at1 w).pc w && (at1 w).params.strictDecode) = true ∧
      (0x4410 / 256 = 0x44 ∧ 0x4410 / 16 % 16 ≠ 0) ∧ (0xA801 / 256 = 0xA8 ∧ 0xA801 % 256 ≠ 0) ∧
      (0xFFFE / 256 = 0xFF ∧ 0xFFFE % 256 ≠ 0xFF) := by
  decide

theorem witness_mustBeZeroBits_lenient :
    otherParams.strictDecode = false ∧ (0x96 : Byte).toNat ∈ [0x44, 0x96] ∧ (0xFF : Byte).toNat ∈ [0xFE, 0xFF] := by
  decide

/-- A five-word compare whose operand's address has 01 in its unused byte, and one whose target's has FF. -/
theorem witness_addressUnusedByte_step :
    let junkOperand := State.code [0x9B31, 0x0109, 0x0010, 0x0008, 0x0200] base
    let junkTarget := State.code [0x9B31, 0x0009, 0x0010, 0xFF08, 0x0200] base
    let i : Instr := .beqAbsoluteAbs 1 0x090010 0x080200
    (junkOperand.fetching = true ∧ junkOperand.params.strictDecode = true ∧ absoluteOperand i.form = true ∧
      junkOperand.holdsWords junkOperand.pc (i.form.first :: extWith junkOperand.params 0x01 0 i.form)) ∧
    junkTarget.fetching = true ∧ absoluteTarget i.form = true ∧
      junkTarget.holdsWords junkTarget.pc (i.form.first :: extWith junkTarget.params 0 0xFF i.form) := by
  refine ⟨⟨by decide, rfl, rfl, ?_⟩, by decide, rfl, ?_⟩ <;> unfold State.holdsWords <;> decide

/-- The unused byte at 1 (strict), at 0 (strict) and at FF (lenient), and either word order. -/
theorem witness_addressUnusedByte :
    (referenceParams.instrOrder = .highFirst ∧ referenceParams.strictDecode = true) ∧
      256 ≤ (0x0100 : Word).toNat ∧ (0x00FF : Word).toNat < 256 ∧
      otherParams.instrOrder = .lowFirst ∧ otherParams.strictDecode = false := by
  decide

/-- A five-word instruction at the program counter. -/
def fiveWords : State :=
  State.code [0x9B31, 0x0009, 0x0010, 0x0008, 0x0200] (State.data [(0x090010, 0xAAAA)] base)

theorem witness_stepRuns :
    fiveWords.takeInputs = fiveWords ∧ fiveWords.resetAsserted = false ∧ fiveWords.dueInterrupt = none ∧
      fiveWords.halted = false ∧
      decode fiveWords.params [0x9B31, 0x0009, 0x0010, 0x0008, 0x0200] =
        .ok (.beqAbsoluteAbs 1 0x090010 0x080200, []) ∧
      fiveWords.holdsWords fiveWords.pc [0x9B31, 0x0009, 0x0010, 0x0008, 0x0200] := by
  refine ⟨rfl, rfl, by decide, rfl, rfl, ?_⟩
  unfold State.holdsWords
  decide

/-- A request that is taken; a machine that fetches with IE = 0; one whose fetch stops. -/
theorem witness_interruptTakenExactly :
    ((traceStart.arrive .irq3).takeInputs.resetAsserted = false ∧ (traceStart.arrive .irq3).flag .ie = true ∧
      (traceStart.arrive .irq3).irq = [.irq3] ∧
      goesOn (finish ((traceStart.arrive .irq3).enterInterrupt .irq3)) = true) ∧
    (at1 0xFFFF).takeInputs.resetAsserted = false ∧ (at1 0xFFFF).flag .ie = false ∧ (at1 0xFFFF).halted = false ∧
      (fetch (at1 0xFFFF)).isOk = true ∧ (fetch (at1 0)).isOk = false := by
  decide

/-- A reset with a vector to take; a halted machine with a request due; a halted machine with none. -/
def resetReady : State := State.data [(0, 2), (1, 0)] State.reset

def haltedDue : State := { traceStart.arrive .irq3 with halted := true }

def haltedQuiet : State := { base with halted := true }

/-- A reset that completes, an entry that completes, and a halt that goes on. -/
theorem witness_haltedBit :
    (resetReady.takeInputs.resetAsserted = true ∧ goesOn (step resetReady) = true) ∧
    (haltedDue.takeInputs.resetAsserted = false ∧ haltedDue.takeInputs.dueInterrupt.isSome = true ∧
      goesOn (step haltedDue) = true) ∧
    haltedQuiet.takeInputs.resetAsserted = false ∧ haltedQuiet.takeInputs.dueInterrupt = none ∧
      haltedQuiet.takeInputs.halted = true := by
  decide

/-- R13 and R00 as destinations; a constant, a word in RAM and a device as operands; R14. -/
theorem witness_load :
    ((13 : Reg).val < 14 ∧ base.operandReadable (.source (.immediate 0xFFFF)) = true) ∧
    ((0 : Reg).val < 14 ∧
      (State.data [(0x0A0002, 1)] base).operandReadable (.source (.memory (.absolute 0x0A0002))) = true) ∧
    base.operandReadable (.source (.memory (.absolute 0x01FFFF))) = true ∧ 14 ≤ (14 : Reg).val := by
  decide

/-- The five kinds of place a store can meet. -/
theorem witness_store :
    (13 : Reg).val < 14 ∧
    kindAt (tiny 1 .refuse).params ((tiny 1 .refuse).ea .indirectY) = some .ram ∧
    kindAt (tiny 2 .refuse).params ((tiny 2 .refuse).ea .indirectY) = some .device ∧
    (kindAt (tiny 3 .ignore).params ((tiny 3 .ignore).ea .indirectY) = some .flash ∧
      (tiny 3 .ignore).params.flashStore = .ignore) ∧
    (kindAt (tiny 3 .refuse).params ((tiny 3 .refuse).ea .indirectZ) = some .flash ∧
      (tiny 3 .refuse).params.flashStore = .refuse) ∧
    kindAt (tiny 4 .refuse).params ((tiny 4 .refuse).ea .indirectZ) = none ∧ 14 ≤ (15 : Reg).val := by
  decide

theorem witness_move : (13 : Reg).val < 14 ∧ (0 : Reg).val < 14 ∧ 14 ≤ (14 : Reg).val := by
  decide

/-- The four kinds of place a read can meet. -/
theorem witness_memoryReads :
    (State.data [(1, 7)] (tiny 1 .refuse)).holds 1 7 = true ∧ kindAt (tiny 2 .refuse).params 2 = some .device ∧
    (kindAt (tiny 0 .refuse).params 0 = some .ram ∧ (tiny 0 .refuse).mem.readWord 0 = none) ∧
    (kindAt (tiny 0 .refuse).params 3 = some .flash ∧ (tiny 0 .refuse).mem.readWord 3 = none) ∧
    kindAt (tiny 0 .refuse).params 4 = none := by
  decide

theorem witness_unreadableOperandStops :
    ((Form.load 13 (.memory .indirectY)).wf = true ∧ readsAt (.load 13 (.memory .indirectY)) = some .indirectY ∧
      kindAt (tiny 4 .refuse).params ((tiny 4 .refuse).ea .indirectY) = none) ∧
    (kindAt (tiny 1 .refuse).params ((tiny 1 .refuse).ea .indirectY) = some .ram ∧
      (tiny 1 .refuse).mem.readWord ((tiny 1 .refuse).ea .indirectY) = none) ∧
    (Form.compare .ge 12 (.source (.memory .indirectZ)) (.relative 0)).wf = true := by
  decide

/-- The two-operand statements: R12 with R13, and R00 with a device. -/
theorem witness_alu :
    base.params.wf = true ∧
    ([AluOp.add, .sub, .and, .or, .xor].all fun op =>
      (Form.alu op 12 (.register 13)).wf && base.operandReadable (.register 13) &&
        (Form.alu op 0 (.source (.memory (.absolute 0x010000)))).wf &&
        base.operandReadable (.source (.memory (.absolute 0x010000)))) = true ∧ (12 : Reg).val < 13 := by
  decide

/-- not, lsl, lsr on R12; lrl, lrr, lsb on R13; bit tests of R13; sb and rb of R13. -/
theorem witness_one_register :
    base.params.wf = true ∧ (12 : Reg).val < 13 ∧ (13 : Reg).val < 14 ∧
      (base.readReg 13).getLsbD 15 = false ∧ ((State.with [(13, 0x8000)] base).readReg 13).getLsbD 15 = true := by
  decide

theorem witness_countBranch :
    base.params.wf = true ∧ (12 : Reg).val < 13 ∧ base.readReg 12 ≠ 0 ∧ (0 : Reg).val < 13 ∧ base.readReg 0 = 0 := by
  decide

theorem witness_compare :
    (Form.compare .eq 13 (.register 12) (.absolute 0xFFFFFF)).wf = true ∧
      (Form.compare .gt 0 (.source (.memory (.absolute 0x010000))) (.relative 0x8000)).wf = true ∧
      base.operandReadable (.register 12) = true ∧
      base.operandReadable (.source (.memory (.absolute 0x010000))) = true := by
  decide

/-- A call whose two slots wrap from the bottom of the stack segment to its top. -/
def callAtZero : State := State.with [(12, 0)] base

theorem witness_call :
    callAtZero.ramAt (callAtZero.slotBelow 0) = true ∧ callAtZero.ramAt (callAtZero.slotBelow 1) = true ∧
      callAtZero.slotBelow 1 = 0x00FFFF := by
  decide

theorem witness_ret :
    let s := State.data [(0, 0x0005), (1, 0x0008)] base
    s.holds (s.slotAbove 0) 0x0005 = true ∧ s.holds (s.slotAbove 1) 0x0008 = true := by
  decide

/-- The state a call leaves is itself a state to return from. -/
theorem witness_callThenReturn :
    goesOn (exec (Form.call (.relative 0xFFFF)).instr callAtZero) = true ∧
      callAtZero.ramAt (callAtZero.slotBelow 0) = true ∧ callAtZero.ramAt (callAtZero.slotBelow 1) = true := by
  decide

/-- A frame of fifteen words above the stack pointer. -/
def frameAbove : State :=
  State.data ((List.range 15).map fun k => (BitVec.ofNat 24 (0xFFF1 + k), BitVec.ofNat 16 k))
    (State.with [(12, 0xFFF0)] base)

theorem witness_retiRestores :
    frameAbove.irq = [] ∧ ((List.range 15).map (BitVec.ofNat 16)).length = 15 ∧
      ((List.range 15).all fun k => frameAbove.holds (frameAbove.slotAbove k) (BitVec.ofNat 16 k)) = true := by
  decide

/-- A chain to the handler of vector 7. -/
theorem witness_retiChains :
    let s := { State.data [(14, 0xAB02), (15, 0x0100)] base with irq := [.irq7] }
    s.irq = [.irq7] ∧ s.vectorIs IrqCode.irq7.number 0xAB02 0x0100 := by
  refine ⟨rfl, ?_, ?_⟩ <;> decide

/-- The stack pointer at each kind of place, in both disciplines. -/
theorem witness_push :
    ((13 : Reg).val < 14 ∧ (13 : Reg) ≠ 12) ∧
    kindAt (State.with [(12, 1)] (tiny 0 .refuse)).params ((State.with [(12, 1)] (tiny 0 .refuse)).slotBelow 0) =
      some .ram ∧
    kindAt (State.with [(12, 2)] (tiny 0 .refuse)).params ((State.with [(12, 2)] (tiny 0 .refuse)).slotBelow 0) =
      some .device ∧
    (kindAt (State.with [(12, 3)] (tiny 0 .refuse)).params ((State.with [(12, 3)] (tiny 0 .refuse)).slotBelow 0) =
      some .flash ∧ (tiny 0 .refuse).params.flashStore = .refuse) ∧
    kindAt (State.with [(12, 4)] (tiny 0 .refuse)).params ((State.with [(12, 4)] (tiny 0 .refuse)).slotBelow 0) =
      none ∧
    (kindAt (State.with [(12, 3)] (tiny 0 .ignore)).params ((State.with [(12, 3)] (tiny 0 .ignore)).slotBelow 0) =
      some .flash ∧ (tiny 0 .ignore).params.flashStore = .ignore) ∧
    ({ callAtZero with params := otherParams } : State).slotBelow 0 = 0x00FFFF := by
  decide

theorem witness_pop :
    (13 : Reg).val < 14 ∧ (13 : Reg) ≠ 12 ∧ frameAbove.readable (frameAbove.slotAbove 0) = true := by
  decide

theorem witness_pushThenPop :
    (11 : Reg).val < 14 ∧ (11 : Reg) ≠ 12 ∧ (13 : Reg).val < 14 ∧ (13 : Reg) ≠ 12 ∧ callAtZero.ramAt (callAtZero.slotBelow 0) = true := by
  decide

/-- Each clause of the refusals. -/
theorem witness_refusedForms :
    (15 ∈ (Instr.mv 0 15).form.registers ∧ 14 ≤ (15 : Reg).val) ∧ Instr.push 12 = .push 12 ∧
    (Instr.addImmediate 13 1).form = .alu .add 13 (.source (.immediate 1)) ∧
    (Instr.lsr 13).form = .unary .lsr 13 ∧ (Instr.bnzRel 13 7).form = .countBranch .nonzero 13 (.relative 7) := by
  decide

theorem witness_nothingElseRefused :
    (Instr.stAbsolute 0 0x020000).wf = true ∧
      exec (.stAbsolute 0 0x020000) base = .refused (.flashStore 0x020000) :=
  ⟨by decide, rfl⟩

/-- Three and four requests waiting; a request among the inputs. -/
theorem witness_arrivalQueues :
    ({ base with irq := [.irq1, .irq2, .irq3] } : State).irq.length < 4 ∧
      4 ≤ ({ base with irq := [.irq1, .irq2, .irq3, .irq4] } : State).irq.length ∧
      ({ base with inputs := [[.irq .irq5]] } : State).inputs = (.irq .irq5 :: []) :: [] := by
  decide

theorem witness_flagRegister : base.params.wf = true ∧ (15 : Fin 16) ≠ base.flagPos .i2 := by
  decide

/-- An entry whose frame wraps through the bottom of the stack segment and misses vector 3. -/
def entryAt (sp : Word) : State := State.with [(12, sp)] (traceStart.arrive .irq3)

theorem witness_interruptEntry :
    let s := entryAt 0x0005
    s.params.wf = true ∧ s.inputs = [] ∧ s.resetAsserted = false ∧ s.flag .ie = true ∧ s.irq = [.irq3] ∧
      s.vectorIs IrqCode.irq3.number 0x0002 0x0100 ∧ s.frameFits IrqCode.irq3.number := by
  refine ⟨by decide, rfl, rfl, by decide, rfl, ⟨by decide, by decide⟩, ?_⟩
  unfold State.frameFits
  decide

theorem witness_entryThenReti : goesOn (step (entryAt 0xFFFF)) = true ∧ goesOn (step (entryAt 0x0005)) = true := by
  decide

/-- A machine at reset with its vectors low word first, 020000 in vector 0. -/
def lowFirstReset : State :=
  State.data [(0, 0), (1, 0xFF02)] { State.reset with params := { referenceParams with vectorOrder := .lowFirst } }

/-- A vector with junk in its unused byte, in either word order; no first word; no second word. -/
theorem witness_resetSequence :
    ((State.data [(0, 0xFF02), (1, 0)] State.reset).takeInputs.resetAsserted = true ∧
      State.reset.params.vectorOrder = .highFirst) ∧
    (State.data [(0, 0xFF02), (1, 0)] State.reset).vectorIs 0 0xFF02 0 ∧
    (lowFirstReset.takeInputs.resetAsserted = true ∧ lowFirstReset.params.vectorOrder = .lowFirst ∧
      lowFirstReset.vectorIs 0 0 0xFF02 ∧ after lowFirstReset (fun t => t.pc) = some 0x020000) ∧
    (State.reset.ramAt 0 = true ∧ State.reset.mem.readWord 0 = none) ∧
    (State.data [(0, 2)] State.reset).holds 0 2 = true ∧ (State.data [(0, 2)] State.reset).ramAt 1 = true ∧
      (State.data [(0, 2)] State.reset).mem.readWord 1 = none := by
  refine ⟨by decide, ⟨by decide, by decide⟩, ⟨by decide, by decide, ⟨by decide, by decide⟩, by decide⟩, by decide,
    by decide, by decide, by decide⟩

/-- A step from a state with the invariant, memory listed and the FIFO full. -/
theorem witness_stepKeepsInvariant :
    let s := { at1 0xC000 with irq := [.irq1, .irq2, .irq3, .irq4] }
    s.Inv ∧ goesOn (step s) = true := by
  refine ⟨⟨by decide, by decide, by decide⟩, by decide⟩

/-- Instructions that give a next state, for the frame statements: one of each shape. -/
theorem witness_frames :
    (goesOn (exec (.addRegister 12 13) base) && goesOn (exec (.stDirect 13 0xFFFF) base) &&
      goesOn (exec (.push 13) base) && goesOn (exec (.jmsRel 0) callAtZero) && goesOn (exec .reti frameAbove) &&
      goesOn (exec (.pop 13) frameAbove) && goesOn (exec (.bzRel 0 7) base) && goesOn (exec .hlt base)) = true ∧
    13 ∉ writtenRegs (Instr.addRegister 12 13).form := by
  decide

end Sys2Proof.Tests
end

section
/-! PROOFS. The step runs the decoded instruction (spec/00_scope.md R12, spec/30_encoding.md R99): the decoder takes as many
extension words as the first word asks for, words held in RAM or flash are fetched as they stand, and the boundary goes on
to `exec`. -/

/-! ### The words the decoder takes (30 R98, R99) -/

namespace Sys2Proof

open Sys2Proof.Machine

/-- `x`, read off the front of the words `es`, takes `n` of them whenever it answers: what it leaves is shorter by `n`. -/
def Takes {α : Type} (n : Nat) (es : List Word) (x : Except DecodeError (α × List Word)) : Prop :=
  ∀ (a : α) (r : List Word), x = .ok (a, r) → es.length = n + r.length

theorem takes_ok {α : Type} (es : List Word) (a : α) : Takes 0 es (.ok (a, es)) := by
  rintro _ _ ⟨⟩
  exact (Nat.zero_add _).symm

theorem Takes.map {α β : Type} {n : Nat} {es : List Word} {x : Except DecodeError (α × List Word)} (h : Takes n es x)
    (f : α → β) : Takes n es (x.map fun (a, r) => (f a, r)) := by
  intro b r hb
  cases x with
  | error e => nomatch hb
  | ok ar => cases hb; exact h ar.1 ar.2 rfl

theorem Takes.bind {α β : Type} {m n : Nat} {es : List Word} {x : Except DecodeError (α × List Word)}
    {f : α × List Word → Except DecodeError (β × List Word)} (hx : Takes m es x)
    (hf : ∀ a r, Takes n r (f (a, r))) : Takes (m + n) es (x >>= f) := by
  intro b r' hb
  cases x with
  | error e => nomatch hb
  | ok ar =>
    have h1 : es.length = m + ar.2.length := hx ar.1 ar.2 rfl
    have h2 : ar.2.length = n + r'.length := hf ar.1 ar.2 b r' hb
    omega

theorem takeWord_takes (es : List Word) : Takes 1 es (takeWord es) := by
  rintro v r h
  cases es with
  | nil => nomatch h
  | cons e es => cases h; exact Nat.add_comm _ _

theorem takeAddr_takes (p : Params) (es : List Word) : Takes 2 es (takeAddr p es) := by
  intro a r h
  match es with
  | [] => nomatch h
  | [_] => nomatch h
  | e0 :: e1 :: es =>
    rw [takeAddr] at h
    split at h
    · nomatch h
    · cases h; exact Nat.add_comm _ 2

theorem takePlace_takes (p : Params) (m : PlaceMode) (es : List Word) : Takes m.words es (takePlace p m es) := by
  cases m with
  | direct => exact (takeWord_takes es).map Place.direct
  | absolute => exact (takeAddr_takes p es).map Place.absolute
  | relative => exact (takeWord_takes es).map Place.relative
  | indirectY => exact takes_ok es Place.indirectY
  | indexedY => exact (takeWord_takes es).map Place.indexedY
  | indirectZ => exact takes_ok es Place.indirectZ
  | indexedZ => exact (takeWord_takes es).map Place.indexedZ

theorem takeSource_takes (p : Params) (m : Mode) (es : List Word) : Takes m.words es (takeSource p m es) := by
  cases m with
  | immediate => exact (takeWord_takes es).map Source.immediate
  | place m => exact (takePlace_takes p m es).map Source.memory

theorem takeTarget_takes (p : Params) (j : Jump) (es : List Word) : Takes j.words es (takeTarget p j es) := by
  cases j with
  | relative => exact (takeWord_takes es).map Target.relative
  | absolute => exact (takeAddr_takes p es).map Target.absolute

/-- Whichever of the two EXT_ORDER puts first, both are taken (30 R104). -/
theorem takeSourceAndTarget_takes (p : Params) (m : Mode) (j : Jump) (es : List Word) :
    Takes (m.words + j.words) es (takeSourceAndTarget p m j es) := by
  unfold takeSourceAndTarget
  split
  · exact (takeSource_takes p m es).bind fun o r => (takeTarget_takes p j r).map fun t => (o, t)
  · rw [Nat.add_comm]
    exact (takeTarget_takes p j es).bind fun t r => (takeSource_takes p m r).map fun o => (o, t)

/-- Completing a head takes the extension words its first word asks for (30 R98, R99). -/
theorem Head.complete_takes (p : Params) (h : Head) (es : List Word) : Takes h.extWords es (h.complete p es) := by
  cases h with
  | whole f => exact takes_ok es f
  | load rd m => exact (takeSource_takes p m es).map (Form.load rd)
  | store rs m => exact (takePlace_takes p m es).map (Form.store rs)
  | alu op rd m => exact (takeSource_takes p m es).map fun o => Form.alu op rd (.source o)
  | bitBranch b rs f j => exact (takeTarget_takes p j es).map (Form.bitBranch b rs f)
  | countBranch b rd j => exact (takeTarget_takes p j es).map (Form.countBranch b rd)
  | compareReg c rs rs2 j => exact (takeTarget_takes p j es).map (Form.compare c rs (.register rs2))
  | compareMode c rs m j =>
    exact (takeSourceAndTarget_takes p m j es).map fun ot => Form.compare c rs (.source ot.1) ot.2
  | jump j => exact (takeTarget_takes p j es).map Form.jump
  | call j => exact (takeTarget_takes p j es).map Form.call

/-- What a decoding says, step by step: the first word gives the head, and the head completed from the extension words
is the instruction's form (30 R99). -/
theorem decode_cons_eq_ok {p : Params} {w : Word} {es r : List Word} {i : Instr} :
    decode p (w :: es) = .ok (i, r) ↔
      ∃ h f, decodeHead p w = .ok h ∧ h.complete p es = .ok (f, r) ∧ f.instr = i := by
  rw [decode]
  cases decodeHead p w with
  | error e => simp [bind, Except.bind]
  | ok h =>
    cases hc : h.complete p es with
    | error e => simp [bind, Except.bind, hc]
    | ok fr =>
      obtain ⟨f, r'⟩ := fr
      simp [bind, Except.bind, hc, and_comm]

end Sys2Proof

/-! ### Fetching words that are held (30 R99, 20 R58, R62) -/

namespace Sys2Proof.Machine

/-- Words held from `a` on: the first is held at `a`, the others from the next address on. -/
theorem State.holdsWords_cons {s : State} {a : Addr} {w : Word} {ws : List Word} :
    s.holdsWords a (w :: ws) ↔ s.holds a w = true ∧ s.holdsWords (a + 1) ws := by
  have start : a + BitVec.ofNat 24 0 = a := BitVec.add_zero a
  have next (k : Nat) : a + BitVec.ofNat 24 (k + 1) = a + 1 + BitVec.ofNat 24 k := by
    rw [BitVec.ofNat_add, BitVec.add_comm (BitVec.ofNat 24 k), BitVec.add_assoc]
    rfl
  constructor
  · intro h
    refine ⟨start ▸ h 0 (Nat.succ_pos _), fun k hk => ?_⟩
    have hk' := h (k + 1) (Nat.succ_lt_succ hk)
    rwa [next] at hk'
  · rintro ⟨hw, hws⟩ k hk
    cases k with
    | zero => rwa [start]
    | succ k =>
      rw [next]
      exact hws k (Nat.lt_of_succ_lt_succ hk)

/-- Held words are read as they stand, and reading them changes nothing (20 R55, R62). -/
theorem readWords_of_holdsWords {s : State} {a : Addr} {ws : List Word} (h : s.holdsWords a ws) :
    readWords ws.length a s = .ok (ws, s) := by
  induction ws generalizing a with
  | nil => rfl
  | cons w ws ih =>
    obtain ⟨hw, hws⟩ := State.holdsWords_cons.mp h
    simp only [List.length_cons, readWords, State.memRead_of_holds hw, ih hws, ok_bind]

/-- Words held at the program counter that decode whole are fetched as the instruction they decode to, and the state stays
as it is (30 R99). -/
theorem fetch_of_holdsWords {s : State} {ws : List Word} {i : Instr} (hd : decode s.params ws = .ok (i, []))
    (hw : s.holdsWords s.pc ws) : fetch s = .ok (i, s) := by
  cases ws with
  | nil => nomatch hd
  | cons w es =>
    obtain ⟨h, f, hhead, hcomplete, rfl⟩ := decode_cons_eq_ok.mp hd
    obtain ⟨hfirst, hrest⟩ := State.holdsWords_cons.mp hw
    have hlen : es.length = h.extWords := Head.complete_takes s.params h es f [] hcomplete
    have hread : readWords h.extWords (s.pc + 1) s = .ok (es, s) := hlen ▸ readWords_of_holdsWords hrest
    simp only [fetch, State.memRead_of_holds hfirst, ok_bind, hhead, hread, hcomplete]

/-! ### The boundary (00 R12) -/

/-- With no reset, nothing due and no halt, a boundary where the fetch goes through is the fetched instruction's `exec`. -/
theorem boundary_of_fetch {s t : State} {i : Instr} (hreset : s.resetAsserted = false) (hdue : s.dueInterrupt = none)
    (hhalt : s.halted = false) (hf : fetch s = .ok (i, t)) : boundary s = exec i t := by
  simp [boundary, hreset, hdue, hhalt, hf]

end Sys2Proof.Machine

namespace Sys2Proof.Certificates

open Sys2Proof.Machine

/-- Settles O9: words that are held and decode whole are what the fetch of the boundary finds, with the state unchanged. -/
theorem stepRunsTheDecodedInstruction : Obligations.StepRunsTheDecodedInstruction := by
  rintro s u ws i rfl hreset hdue hhalt hd hw
  exact boundary_of_fetch hreset hdue hhalt (fetch_of_holdsWords hd hw)

end Sys2Proof.Certificates
end

section
/-! PROOFS. What an instruction can change (spec/10_state.md R22, R31, R46): every shared operation is shown once to change
at most the registers and flags named, `exec_cases` puts them together for every instruction, and the frame statements
read their parts off it. -/

namespace Sys2Proof.Machine

theorem State.isIrqBit_val {s : State} {b : Fin 16} :
    s.isIrqBit b.val ↔ b = s.flagPos .i2 ∨ b = s.flagPos .i1 ∨ b = s.flagPos .i0 := by
  simp only [State.isIrqBit, Fin.ext_iff]

/-! ### Changing at most the registers and flags named -/

/-- From `s` to `t` at most these have changed: of R00 to R12 those of `l`, of R13 the flags `fs` (more where R13 is in `l`),
memory, the program counter, the events and the draws. -/
structure ChangesOnly (l : List Reg) (fs : List Flag) (s t : State) : Prop where
  carries : Carries s t
  pchHigh : t.pchHigh = s.pchHigh
  regs : SameRegsBut l s t
  flags : 13 ∉ l → SameFlagsBut fs s t

section Operations

variable {l : List Reg} {fs : List Flag} {s t u : State}

theorem ChangesOnly.of_same (hc : Carries s t) (hr : t.regs = s.regs) (hf : t.flags = s.flags)
    (hp : t.pchHigh = s.pchHigh) : ChangesOnly l fs s t :=
  ⟨hc, hp, fun _ hr13 _ => State.readReg_congr hr13 hr, fun _ _ _ => by rw [hf]⟩

theorem ChangesOnly.trans (h : ChangesOnly l fs s t) (g : ChangesOnly l fs t u) : ChangesOnly l fs s u where
  carries := h.carries.trans g.carries
  pchHigh := g.pchHigh.trans h.pchHigh
  regs := fun r hr hn => (g.regs r hr hn).trans (h.regs r hr hn)
  flags := fun hn b hb => by
    have hpos : ∀ f, t.flagPos f = s.flagPos f := fun f => by simp [State.flagPos, h.carries.params]
    have hb' : ∀ f ∈ fs, b ≠ t.flagPos f := fun f hf => by rw [hpos]; exact hb f hf
    exact (g.flags hn b hb').trans (h.flags hn b hb)

theorem ChangesOnly.setPc (a : Addr) (s : State) : ChangesOnly l fs s (s.setPc a) :=
  .of_same (.setPc a s) rfl rfl rfl

theorem ChangesOnly.advance (n : Nat) (s : State) : ChangesOnly l fs s (s.advance n) := .setPc _ s

theorem ChangesOnly.branch (s u : State) (b : Bool) (g : Target) (n : Nat) : ChangesOnly l fs u (s.branch b g n u) :=
  .of_same (.branch s u b g n) (by simp) (by simp) (by simp)

theorem ChangesOnly.setSp (h12 : 12 ∈ l) (v : Word) (s : State) : ChangesOnly l fs s (s.setSp v) where
  carries := .setSp v s
  pchHigh := rfl
  regs := fun r hr hn => setSp_sameRegsBut rfl r hr fun h => hn (List.mem_singleton.mp h ▸ h12)
  flags := fun _ _ _ => rfl

theorem ChangesOnly.setFlags {U : List (Flag × Bool)} (hU : ∀ x ∈ U, x.1 ∈ fs) (s : State) :
    ChangesOnly l fs s (s.setFlags U) where
  carries := .setFlags U s
  pchHigh := by simp
  regs := fun r hr _ => State.readReg_congr hr (by simp)
  flags := fun _ => setFlags_sameFlagsBut hU

/-- A register field of an admitted instruction is below 14, so that no write reaches the program counter (30 R109). -/
theorem ChangesOnly.writeReg {r : Reg} (hr : r.val < 14) (hl : r ∈ l) (v : Word) (s : State) :
    ChangesOnly l fs s (s.writeReg r v) where
  carries := .writeReg r v s
  pchHigh := State.writeReg_pchHigh hr v s
  regs := fun q hq hn => State.readReg_writeReg_ne hr hq (fun h => hn (h ▸ hl)) v s
  flags := fun h13 b _ => by
    have hne : r ≠ 13 := fun h => h13 (h ▸ hl)
    have hlt : r.val < 13 := by
      have : r.val ≠ 13 := fun h => hne (Fin.ext h)
      omega
    rw [State.writeReg_flags_of_lt hlt]

theorem ChangesOnly.afterRead (a : Addr) (s : State) : ChangesOnly l fs s (s.afterRead a) :=
  .of_same (.afterRead a s) (by simp) (by simp) (by simp)

theorem ChangesOnly.memRead {a : Addr} {v : Word} (h : s.memRead a = .ok (v, t)) : ChangesOnly l fs s t := by
  obtain ⟨_, _, rfl⟩ := State.memRead_eq_ok.mp h
  exact .afterRead a s

theorem ChangesOnly.memWrite {a : Addr} {v : Word} (h : s.memWrite a v = .ok t) : ChangesOnly l fs s t := by
  obtain ⟨hregs, hflags, _, hpch, _⟩ := State.memWrite_frame h
  exact .of_same (.memWrite h) hregs hflags hpch

theorem ChangesOnly.operand {o : Operand} {v : Word} (h : s.operand o = .ok (v, t)) : ChangesOnly l fs s t := by
  cases o with
  | register r => cases h; exact .of_same (.refl s) rfl rfl rfl
  | source src =>
    cases src with
    | immediate w => cases h; exact .of_same (.refl s) rfl rfl rfl
    | memory q => exact .memRead h

theorem ChangesOnly.push (h12 : 12 ∈ l) {v : Word} (h : s.push v = .ok t) : ChangesOnly l fs s t := by
  obtain ⟨s1, hw, rfl⟩ := State.push_eq_ok h
  exact (ChangesOnly.memWrite hw).trans (.setSp h12 _ s1)

theorem ChangesOnly.pop (h12 : 12 ∈ l) {v : Word} (h : s.pop = .ok (v, t)) : ChangesOnly l fs s t := by
  obtain ⟨s1, hr, rfl⟩ := State.pop_eq_ok h
  exact (ChangesOnly.memRead hr).trans (.setSp h12 _ s1)

theorem ChangesOnly.pushAll (h12 : 12 ∈ l) {vs : List Word} (h : s.pushAll vs = .ok t) : ChangesOnly l fs s t := by
  induction vs generalizing s with
  | nil => cases h; exact .of_same (.refl _) rfl rfl rfl
  | cons v vs ih =>
    obtain ⟨s1, hpush, hrest⟩ := bind_eq_ok.mp h
    exact (ChangesOnly.push h12 hpush).trans (ih hrest)

theorem ChangesOnly.popAddr (h12 : 12 ∈ l) {a : Addr} (h : s.popAddr = .ok (a, t)) : ChangesOnly l fs s t := by
  obtain ⟨⟨w1, s1⟩, h1, h'⟩ := bind_eq_ok.mp h
  obtain ⟨⟨w0, s2⟩, h0, ht⟩ := bind_eq_ok.mp h'
  cases ht
  exact (ChangesOnly.pop h12 h1).trans (.pop h12 h0)

theorem ChangesOnly.popRegs (h12 : 12 ∈ l) {rs : List Reg} (hrs : ∀ r ∈ rs, r.val < 14 ∧ r ∈ l)
    (h : s.popRegs rs = .ok t) : ChangesOnly l fs s t := by
  induction rs generalizing s with
  | nil => cases h; exact .of_same (.refl _) rfl rfl rfl
  | cons r rs ih =>
    obtain ⟨⟨v, s1⟩, hpop, hrest⟩ := bind_eq_ok.mp h
    obtain ⟨hlt, hl⟩ := hrs r List.mem_cons_self
    have htail := ih (fun q hq => hrs q (List.mem_cons_of_mem r hq)) hrest
    exact ((ChangesOnly.pop h12 hpop).trans (.writeReg hlt hl v s1)).trans htail

theorem ChangesOnly.readVector {n : Nat} {a : Addr} (h : s.readVector n = .ok (a, t)) : ChangesOnly l fs s t := by
  obtain ⟨⟨w0, s1⟩, h0, h'⟩ := bind_eq_ok.mp h
  obtain ⟨⟨w1, s2⟩, h1, ht⟩ := bind_eq_ok.mp h'
  cases ht
  exact (ChangesOnly.memRead h0).trans (.memRead h1)

theorem ChangesOnly.drawCountFlags (hc : .c ∈ fs) (hz : .z ∈ fs) (hn : .n ∈ fs) (s : State) :
    ChangesOnly l fs s s.drawCountFlags := by
  have h : ChangesOnly l fs s (s.setFlags [(.c, Config.freeBit s.draws), (.z, Config.freeBit (s.draws + 1)),
      (.n, Config.freeBit (s.draws + 2))]) := .setFlags (by simp [hc, hz, hn]) s
  exact ⟨.drawCountFlags s, h.pchHigh, h.regs, h.flags⟩

end Operations

/-! ### The flags a computation writes are those its "Affected Flags" line lists (10 R32) -/

theorem aluUpdates_affected {p : SubCarry} {op : AluOp} {a b : Word} (rd : Reg) (o : Operand) :
    ∀ x ∈ aluUpdates p op a b, x.1 ∈ affectedFlags (.alu op rd o) := by
  cases op <;> simp [aluUpdates, affectedFlags, ArithFlags.updates, zeroUpdate]

theorem unaryUpdates_affected {p : SubCarry} {op : UnaryOp} {a : Word} {c : Bool} (rd : Reg) :
    ∀ x ∈ unaryUpdates p op a c, x.1 ∈ affectedFlags (.unary op rd) := by
  cases op <;> simp [unaryUpdates, affectedFlags, ArithFlags.updates, zeroUpdate, shiftUpdates]

/-! ### Every instruction -/

/-- Behind a guard that lets the form pass, the register fields are below 14 and the rest has run (30 R109). -/
theorem guardForm_bind_eq_ok {f : Form} {x : Except Stop State} {t : State}
    (h : (guardForm f >>= fun _ => x) = .ok t) : (∀ r ∈ f.registers, r.val < 14) ∧ x = .ok t := by
  obtain ⟨_, hg, hx⟩ := bind_eq_ok.mp h
  exact ⟨fun _ hr => Form.lt_of_wf (guardForm_eq_ok.mp hg) hr, hx⟩

section Forms

variable {s t : State}

theorem loadInto_changesOnly {rd : Reg} {src : Source} (h : loadInto rd src s = .ok t) :
    ChangesOnly [rd] [] s t := by
  obtain ⟨hlt, h⟩ := guardForm_bind_eq_ok h
  obtain ⟨⟨v, s1⟩, hread, ht⟩ := bind_eq_ok.mp h
  cases ht
  exact ((ChangesOnly.operand (o := .source src) hread).trans
    (.writeReg (hlt rd (by simp [Form.registers])) (by simp) v s1)).trans (.advance _ _)

theorem storeFrom_changesOnly {rs : Reg} {q : Place} (h : storeFrom rs q s = .ok t) : ChangesOnly [] [] s t := by
  obtain ⟨-, h⟩ := guardForm_bind_eq_ok h
  obtain ⟨s1, hw, ht⟩ := bind_eq_ok.mp h
  cases ht
  exact (ChangesOnly.memWrite hw).trans (.advance _ s1)

/-- `mv`, `sb` and `rb` come down to one register written. -/
theorem writeReg_advance_changesOnly {r : Reg} (hr : r.val < 14) (v : Word) (n : Nat) :
    ChangesOnly [r] [] s ((s.writeReg r v).advance n) :=
  (ChangesOnly.writeReg hr (by simp) v s).trans (.advance n _)

theorem moveWord_changesOnly {rd rs : Reg} (h : moveWord rd rs s = .ok t) : ChangesOnly [rd] [] s t := by
  obtain ⟨hlt, ht⟩ := guardForm_bind_eq_ok h
  cases ht
  exact writeReg_advance_changesOnly (hlt rd (by simp [Form.registers])) _ _

theorem setBitIn_changesOnly {rd : Reg} {f : BitIndex} (h : setBitIn rd f s = .ok t) : ChangesOnly [rd] [] s t := by
  obtain ⟨hlt, ht⟩ := guardForm_bind_eq_ok h
  cases ht
  exact writeReg_advance_changesOnly (hlt rd (by simp [Form.registers])) _ _

theorem resetBitIn_changesOnly {rd : Reg} {f : BitIndex} (h : resetBitIn rd f s = .ok t) :
    ChangesOnly [rd] [] s t := by
  obtain ⟨hlt, ht⟩ := guardForm_bind_eq_ok h
  cases ht
  exact writeReg_advance_changesOnly (hlt rd (by simp [Form.registers])) _ _

theorem aluInto_changesOnly {op : AluOp} {rd : Reg} {o : Operand} (h : aluInto op rd o s = .ok t) :
    ChangesOnly [rd] (affectedFlags (.alu op rd o)) s t := by
  obtain ⟨hlt, h⟩ := guardForm_bind_eq_ok h
  obtain ⟨⟨b, s1⟩, hread, ht⟩ := bind_eq_ok.mp h
  cases ht
  have hrd : rd.val < 14 := hlt rd (by cases o <;> simp [Form.registers])
  exact (((ChangesOnly.operand hread).trans (.setFlags (aluUpdates_affected rd o) s1)).trans
    (.writeReg hrd (by simp) _ _)).trans (.advance _ _)

theorem unaryOn_changesOnly {op : UnaryOp} {rd : Reg} (h : unaryOn op rd s = .ok t) :
    ChangesOnly [rd] (affectedFlags (.unary op rd)) s t := by
  obtain ⟨hlt, ht⟩ := guardForm_bind_eq_ok h
  cases ht
  exact ((ChangesOnly.setFlags (unaryUpdates_affected rd) s).trans
    (.writeReg (hlt rd (by simp [Form.registers])) (by simp) _ _)).trans (.advance _ _)

theorem branchOnBit_changesOnly {b : BitTest} {rs : Reg} {f : BitIndex} {g : Target}
    (h : branchOnBit b rs f g s = .ok t) : ChangesOnly [] [.z] s t := by
  obtain ⟨-, ht⟩ := guardForm_bind_eq_ok h
  cases ht
  exact (ChangesOnly.setFlags (U := [(.z, !s.testedBit rs f)]) (by simp) s).trans (.branch s _ _ g _)

theorem branchAndCount_changesOnly {b : CountTest} {rd : Reg} {g : Target} (h : branchAndCount b rd g s = .ok t) :
    ChangesOnly [rd] [.c, .z, .n] s t := by
  obtain ⟨hlt, ht⟩ := guardForm_bind_eq_ok h
  cases ht
  refine ChangesOnly.trans ?_ (.branch s _ _ g _)
  split
  · exact .drawCountFlags (by simp) (by simp) (by simp) s
  · exact (ChangesOnly.setFlags (by simp [ArithFlags.countUpdates]) s).trans
      (.writeReg (hlt rd (by simp [Form.registers])) (by simp) _ _)

theorem branchOnCompare_changesOnly {c : Cmp} {rs : Reg} {o : Operand} {g : Target}
    (h : branchOnCompare c rs o g s = .ok t) : ChangesOnly [] [] s t := by
  obtain ⟨-, h⟩ := guardForm_bind_eq_ok h
  obtain ⟨⟨b, s1⟩, hread, ht⟩ := bind_eq_ok.mp h
  cases ht
  exact (ChangesOnly.operand hread).trans (.branch s s1 _ g _)

theorem callTo_changesOnly {g : Target} (h : callTo g s = .ok t) : ChangesOnly [12] [] s t := by
  obtain ⟨s1, hpush, ht⟩ := bind_eq_ok.mp h
  cases ht
  exact (ChangesOnly.pushAll (by simp) hpush).trans (.setPc _ s1)

theorem returnFromCall_changesOnly (h : returnFromCall s = .ok t) : ChangesOnly [12] [] s t := by
  obtain ⟨⟨a, s1⟩, hpop, ht⟩ := bind_eq_ok.mp h
  cases ht
  exact (ChangesOnly.popAddr (by simp) hpop).trans (.setPc a s1)

theorem pushFrom_changesOnly {rs : Reg} (h : pushFrom rs s = .ok t) : ChangesOnly [12] [] s t := by
  obtain ⟨-, h⟩ := guardForm_bind_eq_ok h
  obtain ⟨s1, hpush, ht⟩ := bind_eq_ok.mp h
  cases ht
  exact (ChangesOnly.push (by simp) hpush).trans (.advance _ s1)

theorem popInto_changesOnly {rd : Reg} (h : popInto rd s = .ok t) : ChangesOnly [rd, 12] [] s t := by
  obtain ⟨hlt, h⟩ := guardForm_bind_eq_ok h
  obtain ⟨⟨v, s1⟩, hpop, ht⟩ := bind_eq_ok.mp h
  cases ht
  exact ((ChangesOnly.pop (by simp) hpop).trans
    (.writeReg (hlt rd (by simp [Form.registers])) (by simp) v s1)).trans (.advance _ _)

theorem State.dropRequest_of_empty (h : s.irq = []) : s.dropRequest = s := by
  cases s
  cases h
  rfl

/-- reti takes the request at the head out of the FIFO, where there is one, and then is like any other instruction: it
jumps through the vector, or pops (42 R177). -/
theorem returnFromInterrupt_changesOnly (h : s.returnFromInterrupt = .ok t) :
    ChangesOnly (writtenRegs .reti) [] s.dropRequest t := by
  unfold State.returnFromInterrupt at h
  split at h
  next n _ _ =>
    obtain ⟨⟨a, s1⟩, hv, ht⟩ := bind_eq_ok.mp h
    cases ht
    exact (ChangesOnly.readVector hv).trans (.setPc a s1)
  next hempty =>
    obtain ⟨s1, hregs, h⟩ := bind_eq_ok.mp h
    obtain ⟨⟨a, s2⟩, hpop, ht⟩ := bind_eq_ok.mp h
    cases ht
    have h12 : 12 ∈ writtenRegs .reti := by decide
    rw [State.dropRequest_of_empty hempty]
    exact ((ChangesOnly.popRegs h12 (by decide) hregs).trans (.popAddr h12 hpop)).trans (.setPc a s2)

theorem Instr.form_eq_reti {i : Instr} : i.form = .reti ↔ i = .reti :=
  ⟨fun h => by rw [← Instr.form_instr i, h]; rfl, fun h => h ▸ rfl⟩

theorem Instr.form_eq_halt {i : Instr} : i.form = .halt ↔ i = .hlt :=
  ⟨fun h => by rw [← Instr.form_instr i, h]; rfl, fun h => h ▸ rfl⟩

/-- A form that is neither hlt nor reti changes at most the registers it writes and the flags its line lists. -/
theorem execForm_changesOnly {f : Form} (hh : f ≠ .halt) (hr : f ≠ .reti) (h : execForm f s = .next t) :
    ChangesOnly (writtenRegs f) (affectedFlags f) s t := by
  cases f with
  | load rd src => exact loadInto_changesOnly (finish_eq_next.mp h)
  | store rs q => exact storeFrom_changesOnly (finish_eq_next.mp h)
  | move rd rs => exact moveWord_changesOnly (finish_eq_next.mp h)
  | alu op rd o => exact aluInto_changesOnly (finish_eq_next.mp h)
  | unary op rd => exact unaryOn_changesOnly (finish_eq_next.mp h)
  | bitBranch b rs f g => exact branchOnBit_changesOnly (finish_eq_next.mp h)
  | countBranch b rd g => exact branchAndCount_changesOnly (finish_eq_next.mp h)
  | compare c rs o g => exact branchOnCompare_changesOnly (finish_eq_next.mp h)
  | jump g => cases h; exact .setPc _ s
  | call g => exact callTo_changesOnly (finish_eq_next.mp h)
  | ret => exact returnFromCall_changesOnly (finish_eq_next.mp h)
  | reti => exact absurd rfl hr
  | push rs => exact pushFrom_changesOnly (finish_eq_next.mp h)
  | pop rd => exact popInto_changesOnly (finish_eq_next.mp h)
  | setBit rd f => exact setBitIn_changesOnly (finish_eq_next.mp h)
  | resetBit rd f => exact resetBitIn_changesOnly (finish_eq_next.mp h)
  | halt => exact absurd rfl hh
  | nop => cases h; exact .advance _ s

/-- What an instruction that goes through can do: hlt moves on and halts; reti has taken the head of the FIFO; every other
changes at most the registers it writes and the flags its line lists. -/
theorem exec_cases {i : Instr} (h : exec i s = .next t) :
    (i = .hlt ∧ t = { s.advance 1 with halted := true }) ∨
    (i = .reti ∧ ChangesOnly (writtenRegs i.form) [] s.dropRequest t) ∨
    (i ≠ .hlt ∧ i ≠ .reti ∧ ChangesOnly (writtenRegs i.form) (affectedFlags i.form) s t) := by
  by_cases hh : i = .hlt
  · subst hh; cases h; exact .inl ⟨rfl, rfl⟩
  by_cases hr : i = .reti
  · subst hr; exact .inr (.inl ⟨rfl, returnFromInterrupt_changesOnly (finish_eq_next.mp h)⟩)
  rw [exec_form] at h
  exact .inr (.inr ⟨hh, hr,
    execForm_changesOnly (mt Instr.form_eq_halt.mp hh) (mt Instr.form_eq_reti.mp hr) h⟩)

end Forms

end Sys2Proof.Machine

namespace Sys2Proof.Certificates

open Sys2Proof.Machine

/-- Settles O53: the registers of `exec_cases`; hlt and the FIFO of reti touch none. -/
theorem registerFrame : Obligations.RegisterFrame := by
  intro i s t h
  rcases exec_cases h with ⟨rfl, rfl⟩ | ⟨_, hreti⟩ | ⟨_, _, hother⟩
  · exact fun _ hr _ => State.readReg_congr hr rfl
  · exact fun r hr hn => (hreti.regs r hr hn).trans (State.readReg_congr hr rfl)
  · exact hother.regs

/-- Settles O54: the flags of `exec_cases`; R13 is among the registers of reti, which the statement leaves out. -/
theorem flagFrame : Obligations.FlagFrame := by
  intro i s t h h13
  rcases exec_cases h with ⟨rfl, rfl⟩ | ⟨rfl, _⟩ | ⟨_, _, hother⟩
  · exact fun _ _ => rfl
  · exact absurd (by decide) h13
  · exact hother.flags h13

/-- Settles O56: what every operation carries along, with the head of the FIFO gone after reti and the halted bit set after
hlt. -/
theorem controlFrame : Obligations.ControlFrame := by
  intro i s t h
  rcases exec_cases h with ⟨rfl, rfl⟩ | ⟨rfl, hc, hpch, _, _⟩ | ⟨hh, hr, hc, hpch, _, _⟩
  · simp
  · refine ⟨hc.params, hc.inputs, hc.resetAsserted, hpch, fun b hb => ?_, by simp [hc.irq], by simp [hc.halted]⟩
    exact hc.irqBits b.val (State.isIrqBit_val.mpr hb)
  · refine ⟨hc.params, hc.inputs, hc.resetAsserted, hpch, fun b hb => ?_, by simp [hc.irq, hr], by simp [hc.halted, hh]⟩
    exact hc.irqBits b.val (State.isIrqBit_val.mpr hb)

end Sys2Proof.Certificates
end

section
/-! PROOFS. What a step can do (spec/00_scope.md R12): `boundary_cases` says once which of a reset, an interrupt entry, a
halted step and an instruction it is; the invariant and the halted bit are read off it. -/

namespace Sys2Proof.Machine

/-- The state in which the reset sequence reads vector 0 (70 R230). -/
def State.cleared (s : State) : State :=
  { s with regs := resetRegs, flags := 0, pchHigh := 0, irq := [], halted := false, resetAsserted := false }

/-- The halt ended (60 R207). -/
def State.wake (s : State) : State := { s with halted := false }

section Boundary

variable {s t : State}

theorem Carries.wake (h : Carries s t) : Carries s.wake t.wake :=
  ⟨h.irq, rfl, h.resetAsserted, h.inputs, h.params, h.irqBits, h.wf⟩

theorem Carries.fetch {i : Instr} (h : fetch s = .ok (i, t)) : Carries s t := by
  obtain ⟨⟨w, s1⟩, hfirst, h⟩ := bind_eq_ok.mp h
  dsimp only at h
  split at h
  · nomatch h
  · obtain ⟨⟨es, s2⟩, hrest, h⟩ := bind_eq_ok.mp h
    dsimp only at h
    split at h
    · nomatch h
    · cases h
      exact (Carries.memRead hfirst).trans (.readWords hrest)

/-- After the registers, the flags and the FIFO are cleared, a reset does what any operation may (70 R230). -/
theorem performReset_carries (h : s.performReset = .ok t) : Carries s.cleared t := by
  obtain ⟨⟨a, s1⟩, hv, ht⟩ := bind_eq_ok.mp h
  cases ht
  exact (Carries.readVector hv).trans (.setPc a s1)

/-- But for the request gone and the halt ended, an interrupt entry does what any operation may (60 R207). -/
theorem enterInterrupt_carries {n : IrqCode} (h : s.enterInterrupt n = .ok t) : Carries s.dropRequest.wake t := by
  obtain ⟨s1, haddr, h⟩ := bind_eq_ok.mp h
  obtain ⟨s2, hregs, h⟩ := bind_eq_ok.mp h
  obtain ⟨s3, hflags, h⟩ := bind_eq_ok.mp h
  obtain ⟨⟨a, s5⟩, hv, ht⟩ := bind_eq_ok.mp h
  cases ht
  have hsaved : Carries s.dropRequest (s3.setFlag .ie false) :=
    (((Carries.pushAddr haddr).trans (.pushAll hregs)).trans (.push hflags)).trans (.setFlag .ie false s3)
  exact (hsaved.wake.trans (.readVector hv)).trans (.setPc a s5)

/-- What the CPU does at a boundary that goes through: a reset, an interrupt entry, nothing, or an instruction
(00 R12). -/
theorem boundary_cases (h : boundary s = .next t) :
    (s.resetAsserted = true ∧ s.performReset = .ok t) ∨
    (∃ n, s.resetAsserted = false ∧ s.dueInterrupt = some n ∧ s.enterInterrupt n = .ok t) ∨
    (s.resetAsserted = false ∧ s.dueInterrupt = none ∧ s.halted = true ∧ t = s) ∨
    (∃ i v, s.resetAsserted = false ∧ s.dueInterrupt = none ∧ s.halted = false ∧
      fetch s = .ok (i, v) ∧ exec i v = .next t) := by
  unfold boundary at h
  split at h
  · exact .inl ⟨‹_›, finish_eq_next.mp h⟩
  have hreset : s.resetAsserted = false := Bool.eq_false_iff.mpr ‹_›
  split at h
  · exact .inr (.inl ⟨_, hreset, ‹_›, finish_eq_next.mp h⟩)
  split at h
  · cases h; exact .inr (.inr (.inl ⟨hreset, ‹_›, ‹_›, rfl⟩))
  have hhalt : s.halted = false := Bool.eq_false_iff.mpr ‹_›
  split at h
  · exact .inr (.inr (.inr ⟨_, _, hreset, ‹_›, hhalt, ‹_›, h⟩))
  · rename_i e _
    cases e <;> nomatch h

/-! ### The invariant, operation by operation -/

theorem State.Inv.of_carries (h : Carries s t) (hs : s.Inv) : t.Inv := by
  obtain ⟨hmem, hirq, hparams⟩ := hs
  exact ⟨h.wf hmem, h.irq ▸ hirq, h.params ▸ hparams⟩

theorem State.Inv.takeInputs (hs : s.Inv) : s.takeInputs.Inv := by
  obtain ⟨hmem, hirq, hparams⟩ := hs
  exact ⟨by simpa using hmem, State.takeInputs_length hirq, by simpa using hparams⟩

theorem State.Inv.cleared (hs : s.Inv) : s.cleared.Inv := by
  obtain ⟨hmem, _, hparams⟩ := hs
  exact ⟨hmem, Nat.zero_le 4, hparams⟩

theorem State.Inv.dropRequest (hs : s.Inv) : s.dropRequest.Inv := by
  obtain ⟨hmem, hirq, hparams⟩ := hs
  exact ⟨hmem, by simp; omega, hparams⟩

/-- The invariant does not speak of the halted bit. -/
theorem State.Inv.wake (hs : s.Inv) : s.wake.Inv := hs

theorem State.Inv.exec {i : Instr} (h : exec i s = .next t) (hs : s.Inv) : t.Inv := by
  rcases exec_cases h with ⟨_, rfl⟩ | ⟨_, hreti⟩ | ⟨_, _, hother⟩
  · exact hs
  · exact hs.dropRequest.of_carries hreti.carries
  · exact hs.of_carries hother.carries

end Boundary

end Sys2Proof.Machine

namespace Sys2Proof.Certificates

open Sys2Proof.Machine

/-- Settles O51: each kind of step starts from the state after the inputs and is made of operations that keep the
invariant. -/
theorem stepKeepsInvariant : Obligations.StepKeepsInvariant := by
  intro s t hs h
  have hu : s.takeInputs.Inv := hs.takeInputs
  rcases boundary_cases h with ⟨_, hreset⟩ | ⟨n, _, _, henter⟩ | ⟨_, _, _, rfl⟩ | ⟨i, v, _, _, _, hfetch, hexec⟩
  · exact hu.cleared.of_carries (performReset_carries hreset)
  · exact hu.dropRequest.wake.of_carries (enterInterrupt_carries henter)
  · exact hu
  · exact (hu.of_carries (.fetch hfetch)).exec hexec

/-- Settles O52: nothing is listed, nothing waits, and the reference positions of the flags are distinct. -/
theorem resetMeetsInvariant : Obligations.ResetMeetsInvariant := by
  have hflags : referenceParams.wf = true := by decide
  exact ⟨rfl, Nat.zero_le 4, hflags⟩

/-- Settles O50: with no cell listed no word has a value, and the stored bit of IE is 0. -/
theorem resetStateAsSpec : Obligations.ResetStateAsSpec := by
  have hie : State.reset.flag .ie = false := by decide
  have hmem : ∀ a : Addr, State.reset.mem.readWord a = none := fun _ => rfl
  exact ⟨rfl, hie, rfl, rfl, hmem, rfl⟩

/-- Settles O11: hlt by its meaning, the reset and the entry by what they carry along from a state whose halt has ended,
and the halted step by the boundary's order. -/
theorem haltedBit : Obligations.HaltedBit := by
  rintro s u rfl
  refine ⟨⟨_, rfl, rfl⟩, fun t hreset h => ?_, fun t hreset hdue h => ?_, fun hreset hdue hhalt => ?_⟩
  · rcases boundary_cases h with ⟨_, hr⟩ | ⟨n, hno, _⟩ | ⟨hno, _⟩ | ⟨i, v, hno, _⟩
    · exact (performReset_carries hr).halted
    all_goals simp [hreset] at hno
  · rcases boundary_cases h with ⟨hyes, _⟩ | ⟨n, _, _, henter⟩ | ⟨_, hnone, _⟩ | ⟨i, v, _, hnone, _⟩
    · simp [hreset] at hyes
    · exact (enterInterrupt_carries henter).halted
    all_goals simp [hnone] at hdue
  · simp [step, boundary, hreset, hdue, hhalt]

end Sys2Proof.Certificates
end

section
/-! PROOFS. The flag register (spec/10_state.md R33, R34): where FLAG_BIT is injective a read of R13 shows one bit of the
FIFO's head in each I position, and a write leaves those positions. -/

namespace Sys2Proof.Machine

/-- I2, I1 and I0 read as the bits of the code at the head of the FIFO (10 R33). -/
theorem State.flag_irq {s : State} (h : s.params.wf = true) :
    s.flag .i2 = s.irqHead.testBit 2 ∧ s.flag .i1 = s.irqHead.testBit 1 ∧ s.flag .i0 = s.irqHead.testBit 0 := by
  have apart {f g : Flag} (hfg : f ≠ g) : (s.flagPos f).val ≠ (s.flagPos g).val :=
    fun e => hfg (State.flagPos_inj h (Fin.ext e))
  have h21 : (s.flagPos .i2).val ≠ (s.flagPos .i1).val := apart (by decide)
  have h20 : (s.flagPos .i2).val ≠ (s.flagPos .i0).val := apart (by decide)
  have h10 : (s.flagPos .i1).val ≠ (s.flagPos .i0).val := apart (by decide)
  simp only [State.flag, State.readFlags, getLsbD_setBitTo, h21, h20, h10, if_true, if_false, and_self]

/-- A read of R13 in an I position depends on the FIFO's head and the parameters alone (10 R33). -/
theorem State.readFlags_bit_of_irq {s t : State} (hp : t.params = s.params) (hi : t.irq = s.irq) {k : Nat}
    (hk : s.isIrqBit k) : t.readFlags.getLsbD k = s.readFlags.getLsbD k := by
  simp only [State.readFlags, getLsbD_setBitTo, State.irqHead_congr hi, State.flagPos, hp]
  rcases hk with rfl | rfl | rfl <;> simp [State.flagPos]

end Sys2Proof.Machine

namespace Sys2Proof.Certificates

open Sys2Proof.Machine

/-- Settles O45: outside the I positions the stored bit is read and written; in them the FIFO's head is read, and a write
leaves it. -/
theorem flagRegisterReadsAndWrites : Obligations.FlagRegisterReadsAndWrites := by
  intro s v hw
  simp only [State.readReg_flags, State.writeReg_flags]
  refine ⟨State.flag_irq hw, rfl, fun b h2 h1 h0 => ?_, fun b hb => ?_, rfl⟩
  · have hstored : ¬ s.isIrqBit b.val := by simp [State.isIrqBit_val, h2, h1, h0]
    have hstored' : ¬ (s.writeFlags v).isIrqBit b.val := hstored
    exact ⟨State.readFlags_bit_of_not_irq hstored,
      (State.readFlags_bit_of_not_irq hstored').trans (State.writeFlags_bit_of_not_irq v hstored)⟩
  · exact State.readFlags_bit_of_irq (s := s) (t := s.writeFlags v) rfl rfl (State.isIrqBit_val.mpr hb)

end Sys2Proof.Certificates
end

section
/-! PROOFS. Memory (spec/20_memory.md R52 to R62): what a read does at each kind of address, that a read which stops is
where the instruction stops, and which bytes an instruction can change: `execForm_memory` says it once for every form. -/

namespace Sys2Proof.Machine

section Memory

variable {s t : State} {a : Addr} {v : Word}

/-! ### What a read does, by what answers (20 R52, R55) -/

theorem State.memRead_of_device (hk : kindAt s.params a = some .device) :
    s.memRead a = .ok (Config.freeWord s.draws, s.afterDeviceRead a) := by
  simp only [State.memRead, hk]

theorem State.memRead_of_unpopulated (hk : kindAt s.params a = none) :
    s.memRead a = .error (.fault (.unpopulated a)) := by
  simp only [State.memRead, hk]

theorem State.memRead_of_unwritten (hk : kindAt s.params a = some .ram ∨ kindAt s.params a = some .flash)
    (hw : s.mem.readWord a = none) : s.memRead a = .error (.fault (.unwritten a)) := by
  rcases hk with hk | hk <;> simp only [State.memRead, hk, hw]

/-- A device read leaves registers, flags and memory (20 R62). -/
theorem Frame.afterDeviceRead (a : Addr) (s : State) : Frame [] [] s (s.afterDeviceRead a) :=
  .of_same rfl rfl ⟨rfl, rfl, rfl, rfl, rfl, rfl⟩ [] fun _ _ => rfl

/-! ### A read that stops, stops the instruction (20 R52, R61) -/

/-- Behind the guard every form with a memory operand reads it first, so that where the read stops the instruction
does. -/
theorem execForm_of_memRead_error {f : Form} {q : Place} {e : Stop} (hwf : f.wf = true) (hq : readsAt f = some q)
    (he : s.memRead (s.ea q) = .error e) : execForm f s = e.outcome := by
  have hguard : guardForm f = .ok () := guardForm_of_wf hwf
  have hsource : s.source (.memory q) = .error e := he
  unfold readsAt at hq
  split at hq
  next => cases hq; simp only [execForm, loadInto, hguard, ok_bind, hsource, error_bind, finish]
  next => cases hq; simp only [execForm, aluInto, hguard, ok_bind, State.operand, hsource, error_bind, finish]
  next => cases hq; simp only [execForm, branchOnCompare, hguard, ok_bind, State.operand, hsource, error_bind, finish]
  next => nomatch hq

/-! ### Operations that leave memory as it is -/

theorem State.memRead_mem (h : s.memRead a = .ok (v, t)) : t.mem = s.mem := by
  obtain ⟨_, _, rfl⟩ := State.memRead_eq_ok.mp h
  exact State.afterRead_mem a s

theorem State.operand_mem {o : Operand} (h : s.operand o = .ok (v, t)) : t.mem = s.mem := by
  cases o with
  | register r => cases h; rfl
  | source src =>
    cases src with
    | immediate w => cases h; rfl
    | memory q => exact State.memRead_mem h

theorem State.pop_mem (h : s.pop = .ok (v, t)) : t.mem = s.mem := by
  obtain ⟨s1, hread, rfl⟩ := State.pop_eq_ok h
  exact (State.setSp_mem _ s1).trans (State.memRead_mem hread)

theorem State.popAddr_mem (h : s.popAddr = .ok (a, t)) : t.mem = s.mem := by
  obtain ⟨⟨w1, s1⟩, h1, h'⟩ := bind_eq_ok.mp h
  obtain ⟨⟨w0, s2⟩, h0, ht⟩ := bind_eq_ok.mp h'
  cases ht
  exact (State.pop_mem h0).trans (State.pop_mem h1)

theorem State.popRegs_mem {rs : List Reg} (h : s.popRegs rs = .ok t) : t.mem = s.mem := by
  induction rs generalizing s with
  | nil => cases h; rfl
  | cons r rs ih =>
    obtain ⟨⟨v, s1⟩, hpop, hrest⟩ := bind_eq_ok.mp h
    calc t.mem = (s1.writeReg r v).mem := ih hrest
      _ = s1.mem := State.writeReg_mem r v s1
      _ = s.mem := State.pop_mem hpop

theorem State.readVector_mem {n : Nat} (h : s.readVector n = .ok (a, t)) : t.mem = s.mem := by
  obtain ⟨⟨w0, s1⟩, h0, h'⟩ := bind_eq_ok.mp h
  obtain ⟨⟨w1, s2⟩, h1, ht⟩ := bind_eq_ok.mp h'
  cases ht
  exact (State.memRead_mem h1).trans (State.memRead_mem h0)

/-- Neither the jump through the vector nor the pops of reti store (42 R177). -/
theorem State.returnFromInterrupt_mem (h : s.returnFromInterrupt = .ok t) : t.mem = s.mem := by
  unfold State.returnFromInterrupt at h
  split at h
  next =>
    obtain ⟨⟨a, s1⟩, hv, ht⟩ := bind_eq_ok.mp h
    cases ht
    calc (s1.setPc a).mem = s1.mem := State.setPc_mem a s1
      _ = s.dropRequest.mem := State.readVector_mem hv
      _ = s.mem := State.dropRequest_mem s
  next =>
    obtain ⟨s1, hregs, h⟩ := bind_eq_ok.mp h
    obtain ⟨⟨a, s2⟩, hpop, ht⟩ := bind_eq_ok.mp h
    cases ht
    calc (s2.setPc a).mem = s2.mem := State.setPc_mem a s2
      _ = s1.mem := State.popAddr_mem hpop
      _ = s.mem := State.popRegs_mem hregs

/-! ### The bytes the stack operations store to (10 R26, 42 R175) -/

theorem SameMemoryBut.of_mem {as : List Addr} (h : t.mem = s.mem) : SameMemoryBut as s t :=
  fun k _ => by rw [h]

/-- What is done after the stores and stores nothing itself does not count. -/
theorem SameMemoryBut.to_right {as : List Addr} {u : State} (h : SameMemoryBut as s t) (hm : u.mem = t.mem) :
    SameMemoryBut as s u := fun k hk => hm ▸ h k hk

theorem SameMemoryBut.trans {as bs : List Addr} {u : State} (h : SameMemoryBut as s t) (g : SameMemoryBut bs t u) :
    SameMemoryBut (as ++ bs) s u := fun k hk =>
  (g k fun b hb => hk b (List.mem_append_right as hb)).trans (h k fun b hb => hk b (List.mem_append_left bs hb))

theorem State.push_memory (h : s.push v = .ok t) : SameMemoryBut [s.slotBelow 0] s t := by
  obtain ⟨s1, hw, rfl⟩ := State.push_eq_ok h
  rw [← State.pushSlot_eq]
  exact (State.memWrite_memory hw).to_right (State.setSp_mem _ s1)

theorem State.push_sp (h : s.push v = .ok t) : t.sp = s.sp - 1 := by
  obtain ⟨s1, _, rfl⟩ := State.push_eq_ok h
  exact State.setSp_sp _ s1

/-- Words pushed store to as many slots below, whatever answers there. -/
theorem State.pushAll_memory {vs : List Word} (h : s.pushAll vs = .ok t) :
    SameMemoryBut ((List.range vs.length).map s.slotBelow) s t := by
  induction vs generalizing s with
  | nil => cases h; exact .of_mem rfl
  | cons v vs ih =>
    obtain ⟨s1, hpush, hrest⟩ := bind_eq_ok.mp h
    have hslots : s1.slotBelow = fun k => s.slotBelow (k + 1) :=
      funext (State.slotBelow_succ (Carries.push hpush).params (State.push_sp hpush))
    have htail : SameMemoryBut ((List.range vs.length).map fun k => s.slotBelow (k + 1)) s1 t := hslots ▸ ih hrest
    simpa [List.range_succ_eq_map, Function.comp_def] using (State.push_memory hpush).trans htail

theorem State.pushAddr_memory (h : s.pushAddr a = .ok t) : SameMemoryBut [s.slotBelow 0, s.slotBelow 1] s t := by
  have hlen : (addrWords s.params.stackOrder a).length = 2 := by cases s.params.stackOrder <;> rfl
  have hall := State.pushAll_memory h
  rwa [hlen] at hall

/-! ### Every instruction -/

theorem loadInto_mem {rd : Reg} {src : Source} (h : loadInto rd src s = .ok t) : t.mem = s.mem := by
  obtain ⟨-, h⟩ := guardForm_bind_eq_ok h
  obtain ⟨⟨v, s1⟩, hread, ht⟩ := bind_eq_ok.mp h
  cases ht
  simp [State.operand_mem (o := .source src) hread]

theorem storeFrom_memory {rs : Reg} {q : Place} (h : storeFrom rs q s = .ok t) : SameMemoryBut [s.ea q] s t := by
  obtain ⟨-, h⟩ := guardForm_bind_eq_ok h
  obtain ⟨s1, hw, ht⟩ := bind_eq_ok.mp h
  cases ht
  exact (State.memWrite_memory hw).to_right (State.advance_mem _ s1)

theorem moveWord_mem {rd rs : Reg} (h : moveWord rd rs s = .ok t) : t.mem = s.mem := by
  obtain ⟨-, ht⟩ := guardForm_bind_eq_ok h
  cases ht
  simp

theorem aluInto_mem {op : AluOp} {rd : Reg} {o : Operand} (h : aluInto op rd o s = .ok t) : t.mem = s.mem := by
  obtain ⟨-, h⟩ := guardForm_bind_eq_ok h
  obtain ⟨⟨b, s1⟩, hread, ht⟩ := bind_eq_ok.mp h
  cases ht
  simp [State.operand_mem hread]

theorem unaryOn_mem {op : UnaryOp} {rd : Reg} (h : unaryOn op rd s = .ok t) : t.mem = s.mem := by
  obtain ⟨-, ht⟩ := guardForm_bind_eq_ok h
  cases ht
  simp

theorem branchOnBit_mem {b : BitTest} {rs : Reg} {f : BitIndex} {g : Target} (h : branchOnBit b rs f g s = .ok t) :
    t.mem = s.mem := by
  obtain ⟨-, ht⟩ := guardForm_bind_eq_ok h
  cases ht
  simp

theorem branchAndCount_mem {b : CountTest} {rd : Reg} {g : Target} (h : branchAndCount b rd g s = .ok t) :
    t.mem = s.mem := by
  obtain ⟨-, ht⟩ := guardForm_bind_eq_ok h
  cases ht
  rw [State.branch_mem]
  split <;> simp

theorem branchOnCompare_mem {c : Cmp} {rs : Reg} {o : Operand} {g : Target} (h : branchOnCompare c rs o g s = .ok t) :
    t.mem = s.mem := by
  obtain ⟨-, h⟩ := guardForm_bind_eq_ok h
  obtain ⟨⟨b, s1⟩, hread, ht⟩ := bind_eq_ok.mp h
  cases ht
  simp [State.operand_mem hread]

theorem callTo_memory {g : Target} (h : callTo g s = .ok t) : SameMemoryBut [s.slotBelow 0, s.slotBelow 1] s t := by
  obtain ⟨s1, hpush, ht⟩ := bind_eq_ok.mp h
  cases ht
  exact (State.pushAddr_memory hpush).to_right (State.setPc_mem _ s1)

theorem returnFromCall_mem (h : returnFromCall s = .ok t) : t.mem = s.mem := by
  obtain ⟨⟨a, s1⟩, hpop, ht⟩ := bind_eq_ok.mp h
  cases ht
  exact (State.setPc_mem a s1).trans (State.popAddr_mem hpop)

theorem pushFrom_memory {rs : Reg} (h : pushFrom rs s = .ok t) : SameMemoryBut [s.slotBelow 0] s t := by
  obtain ⟨-, h⟩ := guardForm_bind_eq_ok h
  obtain ⟨s1, hpush, ht⟩ := bind_eq_ok.mp h
  cases ht
  exact (State.push_memory hpush).to_right (State.advance_mem _ s1)

theorem popInto_mem {rd : Reg} (h : popInto rd s = .ok t) : t.mem = s.mem := by
  obtain ⟨-, h⟩ := guardForm_bind_eq_ok h
  obtain ⟨⟨v, s1⟩, hpop, ht⟩ := bind_eq_ok.mp h
  cases ht
  simp [State.pop_mem hpop]

theorem setBitIn_mem {rd : Reg} {f : BitIndex} (h : setBitIn rd f s = .ok t) : t.mem = s.mem := by
  obtain ⟨-, ht⟩ := guardForm_bind_eq_ok h
  cases ht
  simp

theorem resetBitIn_mem {rd : Reg} {f : BitIndex} (h : resetBitIn rd f s = .ok t) : t.mem = s.mem := by
  obtain ⟨-, ht⟩ := guardForm_bind_eq_ok h
  cases ht
  simp

/-- Every form leaves every byte but those of the words `storedAddrs` lists: st, push and jms store, the others keep
memory whole (20 R57, R61). -/
theorem execForm_memory {f : Form} (h : execForm f s = .next t) : SameMemoryBut (storedAddrs s f) s t := by
  cases f with
  | store rs q => exact storeFrom_memory (finish_eq_next.mp h)
  | call g => exact callTo_memory (finish_eq_next.mp h)
  | push rs => exact pushFrom_memory (finish_eq_next.mp h)
  | load rd src => exact .of_mem (loadInto_mem (finish_eq_next.mp h))
  | move rd rs => exact .of_mem (moveWord_mem (finish_eq_next.mp h))
  | alu op rd o => exact .of_mem (aluInto_mem (finish_eq_next.mp h))
  | unary op rd => exact .of_mem (unaryOn_mem (finish_eq_next.mp h))
  | bitBranch b rs f g => exact .of_mem (branchOnBit_mem (finish_eq_next.mp h))
  | countBranch b rd g => exact .of_mem (branchAndCount_mem (finish_eq_next.mp h))
  | compare c rs o g => exact .of_mem (branchOnCompare_mem (finish_eq_next.mp h))
  | jump g => cases h; exact .of_mem rfl
  | ret => exact .of_mem (returnFromCall_mem (finish_eq_next.mp h))
  | reti => exact .of_mem (State.returnFromInterrupt_mem (finish_eq_next.mp h))
  | pop rd => exact .of_mem (popInto_mem (finish_eq_next.mp h))
  | setBit rd f => exact .of_mem (setBitIn_mem (finish_eq_next.mp h))
  | resetBit rd f => exact .of_mem (resetBitIn_mem (finish_eq_next.mp h))
  | halt => cases h; exact .of_mem rfl
  | nop => cases h; exact .of_mem rfl

end Memory

end Sys2Proof.Machine

namespace Sys2Proof.Certificates

open Sys2Proof.Machine

/-- Settles O17: the operand is read before anything else is done, and the read says why it stops. -/
theorem unreadableOperandStops : Obligations.UnreadableOperandStops := by
  intro f q s hwf hq
  rw [exec_instr]
  refine ⟨fun hk => ?_, fun hk hw => ?_⟩
  · exact execForm_of_memRead_error hwf hq (State.memRead_of_unpopulated hk)
  · exact execForm_of_memRead_error hwf hq (State.memRead_of_unwritten hk hw)

/-- Settles O55: the memory frame of the instruction's form. -/
theorem memoryFrame : Obligations.MemoryFrame := by
  intro i s t h
  exact execForm_memory (exec_form i s ▸ h)

/-- Settles O16: the read, one clause per answer; the state after a device read has one more event and one more value
drawn. -/
theorem memoryReads : Obligations.MemoryReads := by
  intro s a
  refine ⟨fun _ => State.memRead_of_holds, fun hk => ?_, State.memRead_of_unwritten, State.memRead_of_unpopulated⟩
  exact ⟨s.afterDeviceRead a, State.memRead_of_device hk, rfl, rfl, rfl, rfl, .afterDeviceRead a s⟩

end Sys2Proof.Certificates
end

section
/-! PROOFS. The encoding (spec/30_encoding.md R80 to R108): `Form.head` is what an instruction's first word fixes. The
decoder reads it back from the first word, and the extension words from it; under STRICT_DECODE nothing else is read as
that instruction. -/

namespace Sys2Proof

open Sys2Proof.Machine

/-! ### What the first word of an instruction fixes (30 R80) -/

/-- The mode of a place (30 R87). -/
def Place.mode : Place → PlaceMode
  | .direct _ => .direct
  | .absolute _ => .absolute
  | .relative _ => .relative
  | .indirectY => .indirectY
  | .indexedY _ => .indexedY
  | .indirectZ => .indirectZ
  | .indexedZ _ => .indexedZ

/-- The mode of an OS = 1 operand (30 R87). -/
def Source.mode : Source → Mode
  | .immediate _ => .immediate
  | .memory q => .place q.mode

/-- The BRT bit of a target (30 R82). -/
def Target.jump : Target → Jump
  | .relative _ => .relative
  | .absolute _ => .absolute

/-- What the first word of an instruction fixes: everything but the values of its extension words (30 R80). -/
def Form.head : Form → Head
  | .load rd src => .load rd src.mode
  | .store rs q => .store rs q.mode
  | .alu op rd (.register rs) => .whole (.alu op rd (.register rs))
  | .alu op rd (.source src) => .alu op rd src.mode
  | .bitBranch b rs f t => .bitBranch b rs f t.jump
  | .countBranch b rd t => .countBranch b rd t.jump
  | .compare c rs (.register rs2) t => .compareReg c rs rs2 t.jump
  | .compare c rs (.source src) t => .compareMode c rs src.mode t.jump
  | .jump t => .jump t.jump
  | .call t => .call t.jump
  | .move rd rs => .whole (.move rd rs)
  | .unary op rd => .whole (.unary op rd)
  | .ret => .whole .ret
  | .reti => .whole .reti
  | .push rs => .whole (.push rs)
  | .pop rd => .whole (.pop rd)
  | .setBit rd f => .whole (.setBit rd f)
  | .resetBit rd f => .whole (.resetBit rd f)
  | .halt => .whole .halt
  | .nop => .whole .nop

theorem Place.words_mode (q : Place) : q.mode.words = q.words := by cases q <;> rfl

theorem Source.words_mode (src : Source) : src.mode.words = src.words := by
  cases src with
  | immediate v => rfl
  | memory q => exact q.words_mode

theorem Target.words_jump (t : Target) : t.jump.words = t.words := by cases t <;> rfl

/-- The head of an instruction asks for as many extension words as the instruction has (30 R98). -/
theorem Form.length_eq_head (f : Form) : f.length = 1 + f.head.extWords := by
  cases f with
  | alu op rd o => cases o <;> simp [Form.length, Form.head, Head.extWords, Operand.words, Source.words_mode]
  | compare c rs o t =>
    cases o <;>
      simp [Form.length, Form.head, Head.extWords, Operand.words, Source.words_mode, Target.words_jump, Nat.add_assoc]
  | _ => simp [Form.length, Form.head, Head.extWords, Place.words_mode, Source.words_mode, Target.words_jump]

theorem PlaceMode.words_le (m : PlaceMode) : m.words ≤ 2 := by cases m <;> decide

theorem Mode.words_le (m : Mode) : m.words ≤ 2 := by
  cases m with
  | immediate => decide
  | place m => exact m.words_le

theorem Jump.words_le (j : Jump) : j.words ≤ 2 := by cases j <;> decide

/-- No instruction has more than four extension words (30 R98). -/
theorem Head.extWords_le (h : Head) : h.extWords ≤ 4 := by
  cases h with
  | whole f => exact Nat.zero_le 4
  | load rd m => exact m.words_le.trans (by decide)
  | store rs m => exact m.words_le.trans (by decide)
  | alu op rd m => exact m.words_le.trans (by decide)
  | compareMode c rs m j => exact Nat.add_le_add m.words_le j.words_le
  | bitBranch b rs f j => exact j.words_le.trans (by decide)
  | countBranch b rd j => exact j.words_le.trans (by decide)
  | compareReg c rs rs2 j => exact j.words_le.trans (by decide)
  | jump j => exact j.words_le.trans (by decide)
  | call j => exact j.words_le.trans (by decide)

/-! ### The opcode map and the mode map, read in both directions (30 R96, R100) -/

/-- The BRT bit as what it adds to the upper byte (30 R82). -/
def Jump.brt : Jump → Byte
  | .relative => 0x00
  | .absolute => 0x02

/-- The upper byte of a layout, made of the bytes the encoder uses (30 R100). -/
def Layout.upper : Layout → Byte
  | .rrMove => 0x06
  | .rr op => op.upper ||| 0x00
  | .rmLoad => 0x03
  | .rmStore => 0x05
  | .rm op => op.upper ||| 0x01
  | .r1 op => op.upper
  | .r1Push => 0xC0
  | .r1Pop => 0xC2
  | .rbSet => 0xC4
  | .rbReset => 0xC6
  | .bRB b j => b.upper ||| j.brt
  | .bR1 b j => b.upper ||| j.brt
  | .bRR c j => c.upper ||| j.brt ||| 0x00
  | .bRM c j => c.upper ||| j.brt ||| 0x01
  | .b0Jump j => 0xA8 ||| j.brt
  | .b0Call j => 0xAC ||| j.brt
  | .n0Ret => 0xB0
  | .n0Reti => 0xB4
  | .wHalt => 0xFE
  | .wNop => 0xFF

/-- The mode code of a place mode (30 R96). -/
def PlaceMode.code : PlaceMode → BitVec 4
  | .direct => 0b0010
  | .absolute => 0b0011
  | .relative => 0b0100
  | .indirectY => 0b0101
  | .indexedY => 0b0110
  | .indirectZ => 0b1101
  | .indexedZ => 0b1110

/-- The mode code of a mode (30 R96). -/
def Mode.code : Mode → BitVec 4
  | .immediate => 0b0001
  | .place m => m.code

/-- Every layout is found under its upper byte. -/
theorem lookup_upper (l : Layout) : opcodeMap.lookup l.upper = some l := by
  cases l with
  | rr op => cases op <;> rfl
  | rm op => cases op <;> rfl
  | r1 op => cases op <;> rfl
  | bRB b j => cases b <;> cases j <;> rfl
  | bR1 b j => cases b <;> cases j <;> rfl
  | bRR c j => cases c <;> cases j <;> rfl
  | bRM c j => cases c <;> cases j <;> rfl
  | b0Jump j => cases j <;> rfl
  | b0Call j => cases j <;> rfl
  | _ => rfl

/-- No layout is found under another byte than its own. -/
theorem eq_upper_of_lookup {u : Byte} {l : Layout} (h : opcodeMap.lookup u = some l) : u = l.upper := by
  have table : ∀ x ∈ opcodeMap, x.1 = x.2.upper := by decide
  obtain ⟨l₁, l₂, hmap, -⟩ := List.lookup_eq_some_iff.mp h
  exact table (u, l) (by rw [hmap]; simp)

theorem lookup_firstWord (l : Layout) (hi lo : BitVec 4) :
    opcodeMap.lookup (upperByte (firstWord l.upper hi lo)) = some l := by
  rw [upperByte_firstWord, lookup_upper]

theorem lookup_code (m : Mode) : modeMap.lookup m.code = some m := by
  cases m with
  | immediate => rfl
  | place m => cases m <;> rfl

theorem eq_code_of_lookup {v : BitVec 4} {m : Mode} (h : modeMap.lookup v = some m) : v = m.code := by
  have table : ∀ x ∈ modeMap, x.1 = x.2.code := by decide
  obtain ⟨l₁, l₂, hmap, -⟩ := List.lookup_eq_some_iff.mp h
  exact table (v, m) (by rw [hmap]; simp)

theorem Place.code_mode (q : Place) : q.mode.code = q.code := by cases q <;> rfl

theorem Source.code_mode (src : Source) : src.mode.code = src.code := by
  cases src with
  | immediate v => rfl
  | memory q => exact q.code_mode

theorem Target.brt_jump (t : Target) : t.jump.brt = t.brt := by cases t <;> rfl

/-- The mode with a given code (30 R87, R106). -/
def modeOf (v : BitVec 4) : Except DecodeError Mode :=
  match modeMap.lookup v with
  | some m => .ok m
  | none => .error .reservedMode

theorem modeField_eq (w : Word) : modeField w = modeOf (highNibble w) := rfl

theorem modeOf_code (m : Mode) : modeOf m.code = .ok m := by simp only [modeOf, lookup_code]

theorem Source.map_modeOf {β : Type} (src : Source) (g : Mode → β) : (modeOf src.code).map g = .ok (g src.mode) := by
  rw [← src.code_mode, modeOf_code]
  rfl

theorem modeOf_eq_ok {v : BitVec 4} {m : Mode} (h : modeOf v = .ok m) : v = m.code := by
  unfold modeOf at h
  split at h
  next hm => cases h; exact eq_code_of_lookup hm
  next => nomatch h

/-- A mapped answer comes from an answer. -/
theorem map_eq_ok {ε α β : Type} {x : Except ε α} {g : α → β} {b : β} (h : x.map g = .ok b) :
    ∃ a, x = .ok a ∧ g a = b := by
  cases x with
  | error e => nomatch h
  | ok a => cases h; exact ⟨a, rfl, rfl⟩

/-! ### The first word, decoded (30 R99, R107) -/

@[simp] theorem whenZero_zero {n : Nat} (p : Params) (h : Head) : whenZero p (0 : BitVec n) h = .ok h := by
  simp [whenZero]

/-- What passes the check is the head itself, and under STRICT_DECODE the field is zero (30 R107). -/
theorem whenZero_eq_ok {n : Nat} {p : Params} {v : BitVec n} {h h' : Head} (e : whenZero p v h = .ok h') :
    h' = h ∧ (p.strictDecode = true → v = 0) := by
  unfold whenZero at e
  split at e
  next => nomatch e
  next hn => cases e; simpa using hn

theorem controlCode_firstWord (u : Byte) (hi lo : BitVec 4) : (firstWord u hi lo).extractLsb' 0 8 = hi ++ lo := by
  apply BitVec.eq_of_toNat_eq
  have := lo.isLt
  have := hi.isLt
  rw [controlCode_toNat, firstWord_toNat, BitVec.toNat_append, ← Nat.shiftLeft_add_eq_or_of_lt lo.isLt,
    Nat.shiftLeft_eq]
  omega

theorem whenOnes_ones (p : Params) (u : Byte) (h : Head) : whenOnes p (firstWord u 0xF 0xF) h = .ok h := by
  have hc : (firstWord u 0xF 0xF).extractLsb' 0 8 = 0xFF#8 := controlCode_firstWord u 0xF 0xF
  simp only [whenOnes, hc, bne_self_eq_false, Bool.and_false, Bool.false_eq_true, if_false]

theorem whenOnes_eq_ok {p : Params} {w : Word} {h h' : Head} (e : whenOnes p w h = .ok h') :
    h' = h ∧ (p.strictDecode = true → w.extractLsb' 0 8 = 0xFF#8) := by
  unfold whenOnes at e
  split at e
  next => nomatch e
  next hn => cases e; simpa using hn

/-- A control code as a whole fixes both nibbles of a first word. -/
theorem firstWord_of_control {u : Byte} {hi lo hi' lo' : BitVec 4} (h : hi ++ lo = hi' ++ lo') :
    firstWord u hi lo = firstWord u hi' lo' := by
  rw [firstWord, firstWord, BitVec.append_assoc, BitVec.append_assoc, h]

/-- What a layout makes of the two nibbles of the control code (30 R101 to R103). -/
def Layout.head (p : Params) (l : Layout) (hi lo : BitVec 4) : Except DecodeError Head :=
  match l with
  | .rrMove => .ok (.whole (.move (fieldNumber lo) (fieldNumber hi)))
  | .rr op => .ok (.whole (.alu op (fieldNumber lo) (.register (fieldNumber hi))))
  | .rmLoad => (modeOf hi).map (.load (fieldNumber lo))
  | .rmStore =>
    match modeOf hi with
    | .ok (.place m) => .ok (.store (fieldNumber lo) m)
    | .ok .immediate => .error .reservedMode
    | .error e => .error e
  | .rm op => (modeOf hi).map (.alu op (fieldNumber lo))
  | .r1 op => whenZero p hi (.whole (.unary op (fieldNumber lo)))
  | .r1Push => whenZero p hi (.whole (.push (fieldNumber lo)))
  | .r1Pop => whenZero p hi (.whole (.pop (fieldNumber lo)))
  | .rbSet => .ok (.whole (.setBit (fieldNumber lo) (fieldNumber hi)))
  | .rbReset => .ok (.whole (.resetBit (fieldNumber lo) (fieldNumber hi)))
  | .bRB b j => .ok (.bitBranch b (fieldNumber lo) (fieldNumber hi) j)
  | .bR1 b j => whenZero p hi (.countBranch b (fieldNumber lo) j)
  | .bRR c j => .ok (.compareReg c (fieldNumber lo) (fieldNumber hi) j)
  | .bRM c j => (modeOf hi).map (.compareMode c (fieldNumber lo) · j)
  | .b0Jump j => whenZero p (hi ++ lo) (.jump j)
  | .b0Call j => whenZero p (hi ++ lo) (.call j)
  | .n0Ret => whenZero p (hi ++ lo) (.whole .ret)
  | .n0Reti => whenZero p (hi ++ lo) (.whole .reti)
  | .wHalt => whenOnes p (firstWord 0xFE hi lo) (.whole .halt)
  | .wNop => whenOnes p (firstWord 0xFF hi lo) (.whole .nop)

/-- The decoder finds the layout by the upper byte and gives it the two nibbles (30 R99). -/
theorem decodeHead_firstWord (p : Params) (l : Layout) (hi lo : BitVec 4) :
    decodeHead p (firstWord l.upper hi lo) = l.head p hi lo := by
  simp only [decodeHead, lookup_firstWord, modeField_eq, highNibble_firstWord, lowNibble_firstWord,
    controlCode_firstWord]
  cases l <;> rfl

/-- A first word is undefined, or it is a layout's upper byte and two nibbles (30 R105). -/
theorem decodeHead_cases (p : Params) (w : Word) :
    (opcodeMap.lookup (upperByte w) = none ∧ decodeHead p w = .error .undefinedOpcode) ∨
    ∃ l : Layout, upperByte w = l.upper ∧ w = firstWord l.upper (highNibble w) (lowNibble w) ∧
      decodeHead p w = l.head p (highNibble w) (lowNibble w) := by
  cases hl : opcodeMap.lookup (upperByte w) with
  | none => exact .inl ⟨rfl, by simp only [decodeHead, hl]⟩
  | some l =>
    have hu : upperByte w = l.upper := eq_upper_of_lookup hl
    have hw : w = firstWord l.upper (highNibble w) (lowNibble w) := hu ▸ firstWord_fields w
    refine .inr ⟨l, hu, hw, ?_⟩
    rw [← decodeHead_firstWord, ← hw]

/-- The first word of an instruction is a layout with two nibbles, from which the layout makes what the word fixes. -/
theorem Form.first_layout (f : Form) :
    ∃ (l : Layout) (hi lo : BitVec 4), f.first = firstWord l.upper hi lo ∧ ∀ p, l.head p hi lo = .ok f.head := by
  cases f with
  | load rd src =>
    exact ⟨.rmLoad, src.code, numberField rd, rfl, fun p => src.map_modeOf _⟩
  | store rs q =>
    have hq : modeOf q.code = .ok (.place q.mode) := q.code_mode ▸ modeOf_code (.place q.mode)
    exact ⟨.rmStore, q.code, numberField rs, rfl, fun p => by simp only [Layout.head, hq]; rfl⟩
  | move rd rs => exact ⟨.rrMove, numberField rs, numberField rd, rfl, fun p => rfl⟩
  | alu op rd o =>
    cases o with
    | register rs => exact ⟨.rr op, numberField rs, numberField rd, rfl, fun p => rfl⟩
    | source src =>
      exact ⟨.rm op, src.code, numberField rd, rfl, fun p => src.map_modeOf _⟩
  | unary op rd => exact ⟨.r1 op, 0, numberField rd, rfl, fun p => whenZero_zero p _⟩
  | bitBranch b rs f t =>
    exact ⟨.bRB b t.jump, numberField f, numberField rs, by simp only [Layout.upper, t.brt_jump]; rfl, fun p => rfl⟩
  | countBranch b rd t =>
    exact ⟨.bR1 b t.jump, 0, numberField rd, by simp only [Layout.upper, t.brt_jump]; rfl, fun p => whenZero_zero p _⟩
  | compare c rs o t =>
    cases o with
    | register rs2 =>
      exact ⟨.bRR c t.jump, numberField rs2, numberField rs, by simp only [Layout.upper, t.brt_jump]; rfl, fun p => rfl⟩
    | source src =>
      exact ⟨.bRM c t.jump, src.code, numberField rs, by simp only [Layout.upper, t.brt_jump]; rfl,
        fun p => src.map_modeOf _⟩
  | jump t => exact ⟨.b0Jump t.jump, 0, 0, by simp only [Layout.upper, t.brt_jump]; rfl, fun p => whenZero_zero p _⟩
  | call t => exact ⟨.b0Call t.jump, 0, 0, by simp only [Layout.upper, t.brt_jump]; rfl, fun p => whenZero_zero p _⟩
  | ret => exact ⟨.n0Ret, 0, 0, rfl, fun p => whenZero_zero p _⟩
  | reti => exact ⟨.n0Reti, 0, 0, rfl, fun p => whenZero_zero p _⟩
  | push rs => exact ⟨.r1Push, 0, numberField rs, rfl, fun p => whenZero_zero p _⟩
  | pop rd => exact ⟨.r1Pop, 0, numberField rd, rfl, fun p => whenZero_zero p _⟩
  | setBit rd f => exact ⟨.rbSet, numberField f, numberField rd, rfl, fun p => rfl⟩
  | resetBit rd f => exact ⟨.rbReset, numberField f, numberField rd, rfl, fun p => rfl⟩
  | halt => exact ⟨.wHalt, 0xF, 0xF, rfl, fun p => whenOnes_ones p _ _⟩
  | nop => exact ⟨.wNop, 0xF, 0xF, rfl, fun p => whenOnes_ones p _ _⟩

/-- The decoder reads back from the first word of an instruction what it fixes (30 R99 to R103). -/
theorem decodeHead_first (p : Params) (f : Form) : decodeHead p f.first = .ok f.head := by
  obtain ⟨l, hi, lo, hfirst, hhead⟩ := f.first_layout
  rw [hfirst, decodeHead_firstWord, hhead]

/-- The first word that fixes a head (30 R100 to R103). -/
def Head.first : Head → Word
  | .whole f => f.first
  | .load rd m => firstWord 0x03 m.code (numberField rd)
  | .store rs m => firstWord 0x05 m.code (numberField rs)
  | .alu op rd m => firstWord (op.upper ||| 0x01) m.code (numberField rd)
  | .bitBranch b rs f j => firstWord (b.upper ||| j.brt) (numberField f) (numberField rs)
  | .countBranch b rd j => firstWord (b.upper ||| j.brt) 0 (numberField rd)
  | .compareReg c rs rs2 j => firstWord (c.upper ||| j.brt ||| 0x00) (numberField rs2) (numberField rs)
  | .compareMode c rs m j => firstWord (c.upper ||| j.brt ||| 0x01) m.code (numberField rs)
  | .jump j => firstWord (0xA8 ||| j.brt) 0 0
  | .call j => firstWord (0xAC ||| j.brt) 0 0

/-- A whole head holds an instruction that its first word fixes whole. -/
def Head.Proper (h : Head) : Prop := ∀ f, h = .whole f → f.head = .whole f

theorem Head.Proper.whole {f : Form} (hf : f.head = .whole f) : Head.Proper (.whole f) := by
  rintro _ ⟨⟩
  exact hf

theorem Head.Proper.of_ne {h : Head} (hn : ∀ f, h ≠ .whole f) : h.Proper := fun f hf => absurd hf (hn f)

/-- The word `w` fixes the head `h`, and under STRICT_DECODE no other word does. -/
def FixedBy (p : Params) (w : Word) (h : Head) : Prop := h.Proper ∧ (p.strictDecode = true → w = h.first)

theorem fixedBy_of_mode {p : Params} {u : Byte} {hi lo : BitVec 4} {g : Mode → Head} {h : Head}
    (e : (modeOf hi).map g = .ok h) (hproper : ∀ m, (g m).Proper)
    (hfirst : ∀ m, firstWord u m.code lo = (g m).first) : FixedBy p (firstWord u hi lo) h := by
  obtain ⟨m, hm, rfl⟩ := map_eq_ok e
  exact ⟨hproper m, fun _ => by rw [modeOf_eq_ok hm, hfirst]⟩

theorem fixedBy_of_zeroNibble {p : Params} {u : Byte} {hi lo : BitVec 4} {h h' : Head} (e : whenZero p hi h' = .ok h)
    (hproper : h'.Proper) (hfirst : firstWord u 0 lo = h'.first) : FixedBy p (firstWord u hi lo) h := by
  obtain ⟨rfl, hz⟩ := whenZero_eq_ok e
  exact ⟨hproper, fun hp => by rw [hz hp, hfirst]⟩

theorem fixedBy_of_zeros {p : Params} {u : Byte} {hi lo : BitVec 4} {h h' : Head}
    (e : whenZero p (hi ++ lo) h' = .ok h) (hproper : h'.Proper) (hfirst : firstWord u 0 0 = h'.first) :
    FixedBy p (firstWord u hi lo) h := by
  obtain ⟨rfl, hz⟩ := whenZero_eq_ok e
  exact ⟨hproper, fun hp => (firstWord_of_control (hz hp)).trans hfirst⟩

theorem fixedBy_of_ones {p : Params} {u : Byte} {hi lo : BitVec 4} {h h' : Head}
    (e : whenOnes p (firstWord u hi lo) h' = .ok h) (hproper : h'.Proper) (hfirst : firstWord u 0xF 0xF = h'.first) :
    FixedBy p (firstWord u hi lo) h := by
  obtain ⟨rfl, hz⟩ := whenOnes_eq_ok e
  rw [controlCode_firstWord] at hz
  exact ⟨hproper, fun hp => (firstWord_of_control (hz hp)).trans hfirst⟩

/-- What a layout makes of two nibbles is fixed by the layout with those nibbles (30 R99, R107). -/
theorem Layout.head_fixedBy {p : Params} {l : Layout} {hi lo : BitVec 4} {h : Head} (e : l.head p hi lo = .ok h) :
    FixedBy p (firstWord l.upper hi lo) h := by
  cases l with
  | rrMove => cases e; exact ⟨.whole rfl, fun _ => rfl⟩
  | rr op => cases e; exact ⟨.whole rfl, fun _ => rfl⟩
  | rmLoad => exact fixedBy_of_mode e (fun _ => .of_ne fun _ => nofun) fun _ => rfl
  | rmStore =>
    simp only [Layout.head] at e
    split at e
    next m hm => cases e; exact ⟨.of_ne (fun _ => nofun), fun _ => by rw [modeOf_eq_ok hm]; rfl⟩
    all_goals nomatch e
  | rm op => exact fixedBy_of_mode e (fun _ => .of_ne fun _ => nofun) fun _ => rfl
  | r1 op => exact fixedBy_of_zeroNibble e (.whole rfl) rfl
  | r1Push => exact fixedBy_of_zeroNibble e (.whole rfl) rfl
  | r1Pop => exact fixedBy_of_zeroNibble e (.whole rfl) rfl
  | rbSet => cases e; exact ⟨.whole rfl, fun _ => rfl⟩
  | rbReset => cases e; exact ⟨.whole rfl, fun _ => rfl⟩
  | bRB b j => cases e; exact ⟨.of_ne (fun _ => nofun), fun _ => rfl⟩
  | bR1 b j => exact fixedBy_of_zeroNibble e (.of_ne fun _ => nofun) rfl
  | bRR c j => cases e; exact ⟨.of_ne (fun _ => nofun), fun _ => rfl⟩
  | bRM c j => exact fixedBy_of_mode e (fun _ => .of_ne fun _ => nofun) fun _ => rfl
  | b0Jump j => exact fixedBy_of_zeros e (.of_ne fun _ => nofun) rfl
  | b0Call j => exact fixedBy_of_zeros e (.of_ne fun _ => nofun) rfl
  | n0Ret => exact fixedBy_of_zeros e (.whole rfl) rfl
  | n0Reti => exact fixedBy_of_zeros e (.whole rfl) rfl
  | wHalt => exact fixedBy_of_ones e (.whole rfl) rfl
  | wNop => exact fixedBy_of_ones e (.whole rfl) rfl

/-- A head that is decoded is fixed by the first word it is decoded from (30 R99, R107). -/
theorem decodeHead_fixedBy {p : Params} {w : Word} {h : Head} (e : decodeHead p w = .ok h) : FixedBy p w h := by
  rcases decodeHead_cases p w with ⟨-, herr⟩ | ⟨l, -, hw, hl⟩
  · nomatch herr.symm.trans e
  · exact hw ▸ Layout.head_fixedBy (hl.symm.trans e)

/-- An instruction's first word is the one that fixes its head. -/
theorem Form.first_head (f : Form) : f.head.first = f.first :=
  ((decodeHead_fixedBy (decodeHead_first referenceParams f)).2 rfl).symm

/-! ### The extension words, read (30 R89 to R97, R104) -/

theorem takeWord_eq_ok {es r : List Word} {v : Word} (h : takeWord es = .ok (v, r)) : es = v :: r := by
  cases es with
  | nil => nomatch h
  | cons e es => cases h; rfl

theorem lowPart_joinAddr (hi lo : Word) : lowPart (joinAddr hi lo) = lo := by
  apply BitVec.eq_of_toNat_eq
  have := lo.isLt
  rw [lowPart_toNat, joinAddr_toNat]
  omega

theorem highPart_joinAddr {hi : Word} (h : hi.toNat / 256 = 0) (lo : Word) : highPart (joinAddr hi lo) = hi := by
  apply BitVec.eq_of_toNat_eq
  have := lo.isLt
  rw [highPart_toNat, joinAddr_toNat]
  omega

/-- The words of an address whose unused byte is zero are those the encoder writes (30 R92, R108). -/
theorem addrWords_pairAddr {o : AddrOrder} {e0 e1 : Word} (h : pairJunk o e0 e1 = 0) :
    addrWords o (pairAddr o e0 e1) = [e0, e1] := by
  have hj : (pairJunk o e0 e1).toNat = 0 := congrArg BitVec.toNat h
  rw [pairJunk_toNat] at hj
  cases o with
  | highFirst => simp only [addrWords, pairAddr, highPart_joinAddr hj, lowPart_joinAddr]
  | lowFirst => simp only [addrWords, pairAddr, highPart_joinAddr hj, lowPart_joinAddr]

theorem takeAddr_eq_ok {p : Params} (hp : p.strictDecode = true) {es r : List Word} {a : Addr}
    (h : takeAddr p es = .ok (a, r)) : es = addrWords p.instrOrder a ++ r := by
  match es with
  | [] => nomatch h
  | [_] => nomatch h
  | e0 :: e1 :: es =>
    rw [takeAddr] at h
    split at h
    next => nomatch h
    next hj =>
      cases h
      have hz : pairJunk p.instrOrder e0 e1 = 0 := by simpa [hp] using hj
      rw [addrWords_pairAddr hz]
      rfl

/-- An answer with its first component mapped comes from an answer that leaves the same words. -/
theorem map_read_eq_ok {α β : Type} {x : Except DecodeError (α × List Word)} {g : α → β} {b : β} {r : List Word}
    (h : (x.map fun (a, r) => (g a, r)) = .ok (b, r)) : ∃ a, x = .ok (a, r) ∧ g a = b := by
  obtain ⟨⟨a, r'⟩, hx, hg⟩ := map_eq_ok h
  cases hg
  exact ⟨a, hx, rfl⟩

/-- A place that is read is of the mode asked for, and under STRICT_DECODE stands in the words the encoder writes. -/
theorem takePlace_eq_ok {p : Params} {m : PlaceMode} {es r : List Word} {q : Place}
    (h : takePlace p m es = .ok (q, r)) : q.mode = m ∧ (p.strictDecode = true → es = q.ext p ++ r) := by
  cases m with
  | direct => obtain ⟨a, ha, rfl⟩ := map_read_eq_ok h; exact ⟨rfl, fun _ => takeWord_eq_ok ha⟩
  | absolute => obtain ⟨a, ha, rfl⟩ := map_read_eq_ok h; exact ⟨rfl, fun hp => takeAddr_eq_ok hp ha⟩
  | relative => obtain ⟨a, ha, rfl⟩ := map_read_eq_ok h; exact ⟨rfl, fun _ => takeWord_eq_ok ha⟩
  | indirectY => cases h; exact ⟨rfl, fun _ => rfl⟩
  | indexedY => obtain ⟨a, ha, rfl⟩ := map_read_eq_ok h; exact ⟨rfl, fun _ => takeWord_eq_ok ha⟩
  | indirectZ => cases h; exact ⟨rfl, fun _ => rfl⟩
  | indexedZ => obtain ⟨a, ha, rfl⟩ := map_read_eq_ok h; exact ⟨rfl, fun _ => takeWord_eq_ok ha⟩

theorem takeSource_eq_ok {p : Params} {m : Mode} {es r : List Word} {src : Source}
    (h : takeSource p m es = .ok (src, r)) : src.mode = m ∧ (p.strictDecode = true → es = src.ext p ++ r) := by
  cases m with
  | immediate => obtain ⟨v, hv, rfl⟩ := map_read_eq_ok h; exact ⟨rfl, fun _ => takeWord_eq_ok hv⟩
  | place m =>
    obtain ⟨q, hq, rfl⟩ := map_read_eq_ok h
    obtain ⟨rfl, hext⟩ := takePlace_eq_ok hq
    exact ⟨rfl, hext⟩

theorem takeTarget_eq_ok {p : Params} {j : Jump} {es r : List Word} {t : Target}
    (h : takeTarget p j es = .ok (t, r)) : t.jump = j ∧ (p.strictDecode = true → es = t.ext p ++ r) := by
  cases j with
  | relative => obtain ⟨v, hv, rfl⟩ := map_read_eq_ok h; exact ⟨rfl, fun _ => takeWord_eq_ok hv⟩
  | absolute => obtain ⟨a, ha, rfl⟩ := map_read_eq_ok h; exact ⟨rfl, fun hp => takeAddr_eq_ok hp ha⟩

theorem bind_read_eq_ok {α β : Type} {x : Except DecodeError α} {g : α → Except DecodeError β} {b : β}
    (h : (x >>= g) = .ok b) : ∃ a, x = .ok a ∧ g a = .ok b := by
  cases x with
  | error e => nomatch h
  | ok a => exact ⟨a, rfl, h⟩

/-- The operand and the target of a compare, in whichever order EXT_ORDER gives (30 R104). -/
theorem takeSourceAndTarget_eq_ok {p : Params} {m : Mode} {j : Jump} {es r : List Word} {src : Source} {t : Target}
    (h : takeSourceAndTarget p m j es = .ok ((src, t), r)) (c : Cmp) (rs : Reg) :
    src.mode = m ∧ t.jump = j ∧ (p.strictDecode = true → es = (Form.compare c rs (.source src) t).ext p ++ r) := by
  unfold takeSourceAndTarget at h
  split at h
  next ho =>
    obtain ⟨⟨src', r1⟩, hsrc, h⟩ := bind_read_eq_ok h
    obtain ⟨⟨t', r2⟩, ht, h⟩ := bind_read_eq_ok h
    cases h
    obtain ⟨hm, hes⟩ := takeSource_eq_ok hsrc
    obtain ⟨hj, hr1⟩ := takeTarget_eq_ok ht
    refine ⟨hm, hj, fun hp => ?_⟩
    simp only [Form.ext, ho, hes hp, hr1 hp, Operand.ext, List.append_assoc]
  next ho =>
    obtain ⟨⟨t', r1⟩, ht, h⟩ := bind_read_eq_ok h
    obtain ⟨⟨src', r2⟩, hsrc, h⟩ := bind_read_eq_ok h
    cases h
    obtain ⟨hj, hes⟩ := takeTarget_eq_ok ht
    obtain ⟨hm, hr1⟩ := takeSource_eq_ok hsrc
    refine ⟨hm, hj, fun hp => ?_⟩
    simp only [Form.ext, ho, hes hp, hr1 hp, Operand.ext, List.append_assoc]

theorem Form.ext_of_whole {f : Form} (h : f.head = .whole f) (p : Params) : f.ext p = [] := by
  cases f with
  | alu op rd o =>
    cases o with
    | register r => rfl
    | source src => nomatch h
  | compare c rs o t => cases o <;> nomatch h
  | load rd src => nomatch h
  | store rs q => nomatch h
  | bitBranch b rs f t => nomatch h
  | countBranch b rd t => nomatch h
  | jump t => nomatch h
  | call t => nomatch h
  | _ => rfl

/-- An instruction completed from a proper head has that head, and under STRICT_DECODE its extension words are those the
encoder writes (30 R99, R104, R108). -/
theorem Head.complete_eq_ok {p : Params} {h : Head} {es r : List Word} {f : Form} (hh : h.Proper)
    (e : h.complete p es = .ok (f, r)) : f.head = h ∧ (p.strictDecode = true → es = f.ext p ++ r) := by
  cases h with
  | whole f' =>
    cases e
    have hf : f.head = .whole f := hh f rfl
    exact ⟨hf, fun _ => by rw [Form.ext_of_whole hf]; rfl⟩
  | load rd m =>
    obtain ⟨src, hsrc, rfl⟩ := map_read_eq_ok e
    obtain ⟨rfl, hext⟩ := takeSource_eq_ok hsrc
    exact ⟨rfl, hext⟩
  | store rs m =>
    obtain ⟨q, hq, rfl⟩ := map_read_eq_ok e
    obtain ⟨rfl, hext⟩ := takePlace_eq_ok hq
    exact ⟨rfl, hext⟩
  | alu op rd m =>
    obtain ⟨src, hsrc, rfl⟩ := map_read_eq_ok (g := fun o => Form.alu op rd (.source o)) e
    obtain ⟨rfl, hext⟩ := takeSource_eq_ok hsrc
    exact ⟨rfl, hext⟩
  | bitBranch b rs f' j =>
    obtain ⟨t, ht, rfl⟩ := map_read_eq_ok e
    obtain ⟨rfl, hext⟩ := takeTarget_eq_ok ht
    exact ⟨rfl, hext⟩
  | countBranch b rd j =>
    obtain ⟨t, ht, rfl⟩ := map_read_eq_ok e
    obtain ⟨rfl, hext⟩ := takeTarget_eq_ok ht
    exact ⟨rfl, hext⟩
  | compareReg c rs rs2 j =>
    obtain ⟨t, ht, rfl⟩ := map_read_eq_ok e
    obtain ⟨rfl, hext⟩ := takeTarget_eq_ok ht
    refine ⟨rfl, fun hp => ?_⟩
    rw [hext hp, Form.ext]
    split <;> simp [Operand.ext]
  | compareMode c rs m j =>
    obtain ⟨⟨src, t⟩, hot, rfl⟩ :=
      map_read_eq_ok (g := fun ot : Source × Target => Form.compare c rs (.source ot.1) ot.2) e
    obtain ⟨rfl, rfl, hext⟩ := takeSourceAndTarget_eq_ok hot c rs
    exact ⟨rfl, hext⟩
  | jump j =>
    obtain ⟨t, ht, rfl⟩ := map_read_eq_ok e
    obtain ⟨rfl, hext⟩ := takeTarget_eq_ok ht
    exact ⟨rfl, hext⟩
  | call j =>
    obtain ⟨t, ht, rfl⟩ := map_read_eq_ok e
    obtain ⟨rfl, hext⟩ := takeTarget_eq_ok ht
    exact ⟨rfl, hext⟩

/-! ### The extension words, with any unused byte, read back (30 R92, R97, R108) -/

/-- The place is an absolute address (30 R92). -/
def Place.isAbsolute : Place → Bool
  | .absolute _ => true
  | _ => false

/-- The operand is in Absolute mode (30 R92). -/
def Source.isAbsolute : Source → Bool
  | .immediate _ => false
  | .memory q => q.isAbsolute

/-- The target is absolute (30 R97). -/
def Target.isAbsolute : Target → Bool
  | .relative _ => false
  | .absolute _ => true

/-- Some unused byte of the instruction is not zero: `jo` of its operand's address, or `jt` of its target's (R108). -/
def hasJunk (jo jt : Byte) (f : Form) : Bool := absoluteOperand f && jo != 0 || absoluteTarget f && jt != 0

section HasJunk

variable {jo jt : Byte}

theorem hasJunk_iff {f : Form} :
    hasJunk jo jt f = true ↔ absoluteOperand f = true ∧ jo ≠ 0 ∨ absoluteTarget f = true ∧ jt ≠ 0 := by
  simp [hasJunk]

theorem hasJunk_store (rs : Reg) (q : Place) : hasJunk jo jt (.store rs q) = (q.isAbsolute && jo != 0) := by
  cases q <;> simp [hasJunk, absoluteOperand, absoluteTarget, Place.isAbsolute]

theorem hasJunk_load (rd : Reg) (src : Source) : hasJunk jo jt (.load rd src) = (src.isAbsolute && jo != 0) := by
  rcases src with v | q
  · rfl
  · cases q <;> simp [hasJunk, absoluteOperand, absoluteTarget, Source.isAbsolute, Place.isAbsolute]

theorem hasJunk_alu (op : AluOp) (rd : Reg) (src : Source) :
    hasJunk jo jt (.alu op rd (.source src)) = (src.isAbsolute && jo != 0) := by
  rcases src with v | q
  · rfl
  · cases q <;> simp [hasJunk, absoluteOperand, absoluteTarget, Source.isAbsolute, Place.isAbsolute]

theorem hasJunk_compare (c : Cmp) (rs : Reg) (src : Source) (t : Target) :
    hasJunk jo jt (.compare c rs (.source src) t) = (src.isAbsolute && jo != 0 || t.isAbsolute && jt != 0) := by
  have ht : absoluteTarget (.compare c rs (.source src) t) = t.isAbsolute := by cases t <;> rfl
  rw [hasJunk, ht]
  rcases src with v | q
  · rfl
  · cases q <;> rfl

theorem hasJunk_compareReg (c : Cmp) (rs rs2 : Reg) (t : Target) :
    hasJunk jo jt (.compare c rs (.register rs2) t) = (t.isAbsolute && jt != 0) := by cases t <;> rfl

theorem hasJunk_bitBranch (b : BitTest) (rs : Reg) (f : BitIndex) (t : Target) :
    hasJunk jo jt (.bitBranch b rs f t) = (t.isAbsolute && jt != 0) := by cases t <;> rfl

theorem hasJunk_countBranch (b : CountTest) (rd : Reg) (t : Target) :
    hasJunk jo jt (.countBranch b rd t) = (t.isAbsolute && jt != 0) := by cases t <;> rfl

theorem hasJunk_jump (t : Target) : hasJunk jo jt (.jump t) = (t.isAbsolute && jt != 0) := by cases t <;> rfl

theorem hasJunk_call (t : Target) : hasJunk jo jt (.call t) = (t.isAbsolute && jt != 0) := by cases t <;> rfl

end HasJunk

/-- What is read where `bad` says that an unused byte is looked at and not zero (30 R108). -/
def unlessJunk {α : Type} (bad : Bool) (x : α) : Except DecodeError α := if bad then .error .addressJunk else .ok x

theorem map_unlessJunk {α β : Type} (bad : Bool) (g : α → β) (a : α) (r : List Word) :
    (unlessJunk bad (a, r)).map (fun (a, r) => (g a, r)) = unlessJunk bad (g a, r) := by
  cases bad <;> rfl

theorem unlessJunk_bind {α β : Type} {b c : Bool} {x : α} {y : β} {g : α → Except DecodeError β}
    (hg : g x = unlessJunk c y) : (unlessJunk b x >>= g) = unlessJunk (b || c) y := by
  cases b
  · exact hg
  · rfl

theorem unlessJunk_bind_ok {α β : Type} (b : Bool) (x : α) (g : α → β) :
    (unlessJunk b x >>= fun a => .ok (g a)) = unlessJunk b (g x) := by
  cases b <;> rfl

theorem takePlace_placeWith (p : Params) (j : Byte) (q : Place) (r : List Word) :
    takePlace p q.mode (placeWith p j q ++ r) = unlessJunk (p.strictDecode && (q.isAbsolute && j != 0)) (q, r) := by
  cases q with
  | absolute a =>
    have ha : takeAddr p (placeWith p j (.absolute a) ++ r) = unlessJunk (p.strictDecode && j != 0) (a, r) := by
      simp [placeWith, takeAddr_addrWordsWith, unlessJunk]
    simp only [Place.mode, takePlace, ha, map_unlessJunk, Place.isAbsolute, Bool.true_and]
  | _ => simp only [Place.isAbsolute, Bool.false_and, Bool.and_false]; rfl

theorem takeSource_operandWith (p : Params) (j : Byte) (src : Source) (r : List Word) :
    takeSource p src.mode (operandWith p j (.source src) ++ r) =
      unlessJunk (p.strictDecode && (src.isAbsolute && j != 0)) (src, r) := by
  cases src with
  | immediate v => simp only [Source.isAbsolute, Bool.false_and, Bool.and_false]; rfl
  | memory q => simp only [Source.mode, takeSource, operandWith, takePlace_placeWith, map_unlessJunk, Source.isAbsolute]

theorem takeTarget_targetWith (p : Params) (j : Byte) (t : Target) (r : List Word) :
    takeTarget p t.jump (targetWith p j t ++ r) = unlessJunk (p.strictDecode && (t.isAbsolute && j != 0)) (t, r) := by
  cases t with
  | absolute a =>
    have ha : takeAddr p (targetWith p j (.absolute a) ++ r) = unlessJunk (p.strictDecode && j != 0) (a, r) := by
      simp [targetWith, takeAddr_addrWordsWith, unlessJunk]
    simp only [Target.jump, takeTarget, ha, map_unlessJunk, Target.isAbsolute, Bool.true_and]
  | relative o => simp only [Target.isAbsolute, Bool.false_and, Bool.and_false]; rfl

theorem takeSourceAndTarget_with (p : Params) (jo jt : Byte) (c : Cmp) (rs : Reg) (src : Source) (t : Target)
    (r : List Word) :
    takeSourceAndTarget p src.mode t.jump (extWith p jo jt (.compare c rs (.source src) t) ++ r) =
      unlessJunk (p.strictDecode && hasJunk jo jt (.compare c rs (.source src) t)) ((src, t), r) := by
  rw [hasJunk_compare, Bool.and_or_distrib_left]
  simp only [takeSourceAndTarget, extWith]
  cases p.extOrder with
  | operandFirst =>
    simp only [List.append_assoc, takeSource_operandWith]
    refine unlessJunk_bind ?_
    show (takeTarget p t.jump (targetWith p jt t ++ r) >>= fun x => .ok ((src, x.1), x.2)) = _
    rw [takeTarget_targetWith, unlessJunk_bind_ok]
  | targetFirst =>
    simp only [List.append_assoc, takeTarget_targetWith]
    rw [Bool.or_comm]
    refine unlessJunk_bind ?_
    show (takeSource p src.mode (operandWith p jo (.source src) ++ r) >>= fun x => .ok ((x.1, t), x.2)) = _
    rw [takeSource_operandWith, unlessJunk_bind_ok]

theorem extWith_compareReg (p : Params) (jo jt : Byte) (c : Cmp) (rs rs2 : Reg) (t : Target) :
    extWith p jo jt (.compare c rs (.register rs2) t) = targetWith p jt t := by
  simp only [extWith, operandWith, Operand.ext]
  cases p.extOrder with
  | operandFirst => rfl
  | targetFirst => exact List.append_nil _

/-- The extension words of an instruction, with any byte in the unused ones, give the instruction back, or under
STRICT_DECODE nothing where such a byte is not zero (30 R99, R108). -/
theorem complete_extWith (p : Params) (jo jt : Byte) (f : Form) (r : List Word) :
    f.head.complete p (extWith p jo jt f ++ r) = unlessJunk (p.strictDecode && hasJunk jo jt f) (f, r) := by
  have whole {b : Bool} (hb : b = false) : unlessJunk (p.strictDecode && b) (f, r) = .ok (f, r) := by
    rw [hb, Bool.and_false]
    rfl
  cases f with
  | load rd src =>
    simp only [Form.head, Head.complete, extWith, takeSource_operandWith, map_unlessJunk, hasJunk_load]
  | store rs q => simp only [Form.head, Head.complete, extWith, takePlace_placeWith, map_unlessJunk, hasJunk_store]
  | alu op rd o =>
    cases o with
    | register rs => exact (whole rfl).symm
    | source src =>
      simp only [Form.head, Head.complete, extWith, takeSource_operandWith, hasJunk_alu]
      exact map_unlessJunk _ (fun o => Form.alu op rd (.source o)) src r
  | bitBranch b rs f t =>
    simp only [Form.head, Head.complete, extWith, takeTarget_targetWith, map_unlessJunk, hasJunk_bitBranch]
  | countBranch b rd t =>
    simp only [Form.head, Head.complete, extWith, takeTarget_targetWith, map_unlessJunk, hasJunk_countBranch]
  | compare c rs o t =>
    cases o with
    | register rs2 =>
      simp only [Form.head, Head.complete, extWith_compareReg, takeTarget_targetWith, map_unlessJunk,
        hasJunk_compareReg]
    | source src =>
      simp only [Form.head, Head.complete, takeSourceAndTarget_with]
      exact map_unlessJunk _ (fun ot : Source × Target => Form.compare c rs (.source ot.1) ot.2) (src, t) r
  | jump t => simp only [Form.head, Head.complete, extWith, takeTarget_targetWith, map_unlessJunk, hasJunk_jump]
  | call t => simp only [Form.head, Head.complete, extWith, takeTarget_targetWith, map_unlessJunk, hasJunk_call]
  | _ => exact (whole rfl).symm

/-- Decoding the words of an instruction with any byte in the unused ones (30 R99, R108). -/
theorem decode_extWith (p : Params) (jo jt : Byte) (i : Instr) (r : List Word) :
    decode p (i.form.first :: extWith p jo jt i.form ++ r) =
      unlessJunk (p.strictDecode && hasJunk jo jt i.form) (i, r) := by
  rw [List.cons_append, decode, decodeHead_first]
  show (i.form.head.complete p (extWith p jo jt i.form ++ r) >>= fun x => .ok (x.1.instr, x.2)) = _
  rw [complete_extWith, unlessJunk_bind_ok, Instr.form_instr]

end Sys2Proof

namespace Sys2Proof.Certificates

open Sys2Proof.Machine

/-- Settles O1: with zero in the unused bytes there is nothing to reject. -/
theorem encodeThenDecode : Obligations.EncodeThenDecode := by
  intro p i rest
  have h := decode_extWith p 0 0 i rest
  simpa [extWith_zero, hasJunk, unlessJunk, encode] using h

/-- Settles O2: the first word is the one of the head decoded, and the extension words those of the instruction
completed from it. -/
theorem decodeThenEncode : Obligations.DecodeThenEncode := by
  intro p ws rest i hp hd
  cases ws with
  | nil => nomatch hd
  | cons w es =>
    obtain ⟨h, f, hhead, hcomplete, rfl⟩ := decode_cons_eq_ok.mp hd
    obtain ⟨hproper, hfirst⟩ := decodeHead_fixedBy hhead
    obtain ⟨rfl, hext⟩ := Head.complete_eq_ok hproper hcomplete
    rw [encode, Form.instr_form, hfirst hp, Form.first_head, hext hp]
    rfl

/-- Settles O4: the head decoded from the first word fixes the length, and completing it takes the words it asks for. -/
theorem firstWordFixesTheLength : Obligations.FirstWordFixesTheLength := by
  have length {p : Params} {w : Word} {es r : List Word} {i : Instr} {h : Head} (hhead : decodeHead p w = .ok h)
      (hd : decode p (w :: es) = .ok (i, r)) : i.length = 1 + h.extWords ∧ es.length = h.extWords + r.length := by
    obtain ⟨h', f, hhead', hcomplete, rfl⟩ := decode_cons_eq_ok.mp hd
    cases hhead.symm.trans hhead'
    obtain ⟨hproper, -⟩ := decodeHead_fixedBy hhead
    obtain ⟨rfl, -⟩ := Head.complete_eq_ok hproper hcomplete
    rw [Instr.length, Form.instr_form, Form.length_eq_head]
    exact ⟨rfl, Head.complete_takes p _ es f r hcomplete⟩
  intro p w es es' r r' i j hi
  obtain ⟨h, f, hhead, -⟩ := decode_cons_eq_ok.mp hi
  obtain ⟨hlen, htaken⟩ := length hhead hi
  have hmax := h.extWords_le
  exact ⟨by omega, by omega, by omega, fun hj => (length hhead hj).1.trans hlen.symm⟩

/-- Words that are an instruction's encoding decode to it. -/
theorem decode_of_encode {p : Params} {i : Instr} {ws : List Word} (h : encode p i = ws) :
    decode p ws = .ok (i, []) := by
  have hd := encodeThenDecode p i []
  rwa [List.append_nil, h] at hd

/-- Settles O3: each line's words are the encoding of its instruction. -/
theorem sampleWordsDecode : Obligations.SampleWordsDecode := by
  and_intros <;> exact decode_of_encode rfl

/-- Settles O57: the words written with each mode code are the encodings of the eight forms of ld. -/
theorem modeCodes : Obligations.ModeCodes := by
  intro p rd r v a src rest
  have hld (i : Instr) := encodeThenDecode p i rest
  refine ⟨⟨hld (.ldImmediate rd v), hld (.ldDirect rd v), hld (.ldAbsolute rd a), hld (.ldRelative rd v),
    hld (.ldIndirectY rd), hld (.ldIndexedY rd v), hld (.ldIndirectZ rd), hld (.ldIndexedZ rd v)⟩, ?_, ?_, ?_⟩
  all_goals and_intros <;> rfl

end Sys2Proof.Certificates
end

section
/-! PROOFS. Why an instruction stops (spec/30_encoding.md R109, spec/20_memory.md R52, R55): a form of R109 is refused
before anything is done; every other form stops only where a memory access does. -/

namespace Sys2Proof.Machine

/-! ### The forms that are refused (30 R109) -/

/-- What R109 refuses is refused in every state, whatever the rest of the meaning is. -/
theorem execForm_of_refusal {f : Form} {r : Refusal} (h : refusalOf f = some r) (s : State) :
    execForm f s = .refused r := by
  have hguard : guardForm f = .error (.refused r) := by simp only [guardForm, h]
  cases f with
  | load rd src => simp only [execForm, loadInto, hguard, error_bind]; rfl
  | store rs q => simp only [execForm, storeFrom, hguard, error_bind]; rfl
  | move rd rs => simp only [execForm, moveWord, hguard, error_bind]; rfl
  | alu op rd o => simp only [execForm, aluInto, hguard, error_bind]; rfl
  | unary op rd => simp only [execForm, unaryOn, hguard, error_bind]; rfl
  | bitBranch b rs f t => simp only [execForm, branchOnBit, hguard, error_bind]; rfl
  | countBranch b rd t => simp only [execForm, branchAndCount, hguard, error_bind]; rfl
  | compare c rs o t => simp only [execForm, branchOnCompare, hguard, error_bind]; rfl
  | push rs => simp only [execForm, pushFrom, hguard, error_bind]; rfl
  | pop rd => simp only [execForm, popInto, hguard, error_bind]; rfl
  | setBit rd f => simp only [execForm, setBitIn, hguard, error_bind]; rfl
  | resetBit rd f => simp only [execForm, resetBitIn, hguard, error_bind]; rfl
  | jump t => nomatch h
  | call t => nomatch h
  | ret => nomatch h
  | reti => nomatch h
  | halt => nomatch h
  | nop => nomatch h

theorem refusalOf_eq_none {f : Form} : refusalOf f = none ↔ f.wf = true := by
  rw [← guardForm_eq_ok, guardForm]
  cases refusalOf f <;> simp

theorem refusalOf_of_namesPc {f : Form} (h : f.namesPc = true) : refusalOf f = some .pcOperand := by
  simp only [refusalOf, h, if_true]

/-- Where no register field is 14 or 15, a flag-writing form with destination R13 is refused for that (30 R109 (c)). -/
theorem refusalOf_of_flagsIntoF {f : Form} (hpc : f.namesPc = false) (hf : f.flagsIntoF = true) :
    refusalOf f = some .flagRegisterDestination := by
  have hsp : f.stacksSp = false := by
    cases f with
    | push rs => nomatch hf
    | pop rd => nomatch hf
    | _ => rfl
  simp only [refusalOf, hpc, hsp, hf, Bool.false_eq_true, if_false, if_true]

theorem Form.namesPc_eq_true {f : Form} : f.namesPc = true ↔ ∃ r ∈ f.registers, 14 ≤ r.val := by
  simp [Form.namesPc]

/-! ### The accesses that stop (20 R52, R55) -/

/-- The stops of a memory access: nothing answers, no value is held, a store to flash. -/
inductive AccessStop : Stop → Prop
  | unpopulated (a : Addr) : AccessStop (.fault (.unpopulated a))
  | unwritten (a : Addr) : AccessStop (.fault (.unwritten a))
  | flashStore (a : Addr) : AccessStop (.refused (.flashStore a))

/-- An operation that stops only where a memory access does. -/
def StopsAtAccess {α : Type} (x : Except Stop α) : Prop := ∀ e, x = .error e → AccessStop e

theorem StopsAtAccess.ok {α : Type} (a : α) : StopsAtAccess (.ok a) := nofun

theorem StopsAtAccess.error {α : Type} {e : Stop} (h : AccessStop e) : StopsAtAccess (.error e : Except Stop α) := by
  rintro _ ⟨⟩
  exact h

theorem StopsAtAccess.bind {α β : Type} {x : Except Stop α} {g : α → Except Stop β} (hx : StopsAtAccess x)
    (hg : ∀ a, StopsAtAccess (g a)) : StopsAtAccess (x >>= g) := by
  cases x with
  | error e => exact .error (hx e rfl)
  | ok a => exact hg a

theorem memRead_stopsAtAccess (a : Addr) (s : State) : StopsAtAccess (s.memRead a) := by
  unfold State.memRead
  split
  · exact .error (.unpopulated a)
  · exact .ok _
  all_goals
    split
    · exact .ok _
    · exact .error (.unwritten a)

theorem memWrite_stopsAtAccess (a : Addr) (v : Word) (s : State) : StopsAtAccess (s.memWrite a v) := by
  unfold State.memWrite
  split
  · exact .error (.unpopulated a)
  · exact .ok _
  · exact .ok _
  · split
    · exact .error (.flashStore a)
    · exact .ok _

theorem readWords_stopsAtAccess (n : Nat) (a : Addr) (s : State) : StopsAtAccess (readWords n a s) := by
  induction n generalizing a s with
  | zero => exact .ok _
  | succ n ih => exact (memRead_stopsAtAccess a s).bind fun _ => (ih _ _).bind fun _ => .ok _

theorem push_stopsAtAccess (v : Word) (s : State) : StopsAtAccess (s.push v) :=
  (memWrite_stopsAtAccess _ v s).bind fun _ => .ok _

theorem pop_stopsAtAccess (s : State) : StopsAtAccess s.pop := (memRead_stopsAtAccess _ s).bind fun _ => .ok _

theorem pushAll_stopsAtAccess (vs : List Word) (s : State) : StopsAtAccess (s.pushAll vs) := by
  induction vs generalizing s with
  | nil => exact .ok s
  | cons v vs ih => exact (push_stopsAtAccess v s).bind ih

theorem popRegs_stopsAtAccess (rs : List Reg) (s : State) : StopsAtAccess (s.popRegs rs) := by
  induction rs generalizing s with
  | nil => exact .ok s
  | cons r rs ih => exact (pop_stopsAtAccess s).bind fun _ => ih _

theorem popAddr_stopsAtAccess (s : State) : StopsAtAccess s.popAddr :=
  (pop_stopsAtAccess s).bind fun _ => (pop_stopsAtAccess _).bind fun _ => .ok _

theorem readVector_stopsAtAccess (n : Nat) (s : State) : StopsAtAccess (s.readVector n) :=
  (memRead_stopsAtAccess _ s).bind fun _ => (memRead_stopsAtAccess _ _).bind fun _ => .ok _

theorem operand_stopsAtAccess (o : Operand) (s : State) : StopsAtAccess (s.operand o) := by
  cases o with
  | register r => exact .ok _
  | source src =>
    cases src with
    | immediate v => exact .ok _
    | memory q => exact memRead_stopsAtAccess _ s

theorem returnFromInterrupt_stopsAtAccess (s : State) : StopsAtAccess s.returnFromInterrupt := by
  unfold State.returnFromInterrupt
  split
  · exact (readVector_stopsAtAccess _ _).bind fun _ => .ok _
  · exact (popRegs_stopsAtAccess _ s).bind fun _ => (popAddr_stopsAtAccess _).bind fun _ => .ok _

/-- An outcome of an operation that stops only where a memory access does. -/
theorem StopsAtAccess.finish_cases {x : Except Stop State} (hx : StopsAtAccess x) :
    (∃ t, finish x = .next t) ∨ ∃ e, AccessStop e ∧ finish x = e.outcome := by
  cases x with
  | ok t => exact .inl ⟨t, rfl⟩
  | error e => exact .inr ⟨e, hx e rfl, rfl⟩

/-- An admitted form goes through, or stops where a memory access does (30 R109, 20 R52, R55). -/
theorem execForm_of_wf {f : Form} (hwf : f.wf = true) (s : State) :
    (∃ t, execForm f s = .next t) ∨ ∃ e, AccessStop e ∧ execForm f s = e.outcome := by
  have guard : StopsAtAccess (guardForm f) := guardForm_of_wf hwf ▸ .ok ()
  cases f with
  | load rd src =>
    exact (guard.bind fun _ => (operand_stopsAtAccess (.source src) s).bind fun _ => .ok _).finish_cases
  | store rs q => exact (guard.bind fun _ => (memWrite_stopsAtAccess _ _ s).bind fun _ => .ok _).finish_cases
  | move rd rs => exact (guard.bind fun _ => .ok _).finish_cases
  | alu op rd o => exact (guard.bind fun _ => (operand_stopsAtAccess o s).bind fun _ => .ok _).finish_cases
  | unary op rd => exact (guard.bind fun _ => .ok _).finish_cases
  | bitBranch b rs f t => exact (guard.bind fun _ => .ok _).finish_cases
  | countBranch b rd t => exact (guard.bind fun _ => .ok _).finish_cases
  | compare c rs o t => exact (guard.bind fun _ => (operand_stopsAtAccess o s).bind fun _ => .ok _).finish_cases
  | jump t => exact .inl ⟨_, rfl⟩
  | call t => exact ((pushAll_stopsAtAccess _ s).bind fun _ => .ok _).finish_cases
  | ret => exact ((popAddr_stopsAtAccess s).bind fun _ => .ok _).finish_cases
  | reti => exact (returnFromInterrupt_stopsAtAccess s).finish_cases
  | push rs => exact (guard.bind fun _ => (push_stopsAtAccess _ s).bind fun _ => .ok _).finish_cases
  | pop rd => exact (guard.bind fun _ => (pop_stopsAtAccess s).bind fun _ => .ok _).finish_cases
  | setBit rd f => exact (guard.bind fun _ => .ok _).finish_cases
  | resetBit rd f => exact (guard.bind fun _ => .ok _).finish_cases
  | halt => exact .inl ⟨_, rfl⟩
  | nop => exact .inl ⟨_, rfl⟩

/-- What any instruction can end in: a next state, a refusal of R109, or the stop of a memory access. -/
theorem exec_outcomes (i : Instr) (s : State) :
    (∃ t, exec i s = .next t) ∨ (∃ r, refusalOf i.form = some r ∧ exec i s = .refused r) ∨
      ∃ e, AccessStop e ∧ exec i s = e.outcome := by
  rw [exec_form]
  cases hr : refusalOf i.form with
  | some r => exact .inr (.inl ⟨r, rfl, execForm_of_refusal hr s⟩)
  | none => exact (execForm_of_wf (refusalOf_eq_none.mp hr) s).imp_right .inr

end Sys2Proof.Machine

namespace Sys2Proof.Certificates

open Sys2Proof.Machine

/-- Settles O43: each kind of form has its refusal, which comes before anything else. -/
theorem refusedForms : Obligations.RefusedForms := by
  intro i s
  simp only [exec_form]
  refine ⟨fun hpc => ?_, fun hsp => ?_, fun hlt hf => ?_⟩
  · exact execForm_of_refusal (refusalOf_of_namesPc (Form.namesPc_eq_true.mpr hpc)) s
  · rcases hsp with rfl | rfl <;> exact execForm_of_refusal rfl s
  · have hpc : i.form.namesPc = false := by
      rw [Bool.eq_false_iff, ne_eq, Form.namesPc_eq_true]
      rintro ⟨r, hr, h14⟩
      exact absurd (hlt r hr) (by omega)
    have hdest : i.form.flagsIntoF = true := by
      rcases hf with ⟨op, o, h⟩ | ⟨op, hop, h⟩ | ⟨b, g, h⟩
      · rw [h]; rfl
      · rw [h]
        have writes : ∀ op ∈ [UnaryOp.inc, .dec, .not, .lsl, .lsr], op.writesFlags = true := by decide
        simp [Form.flagsIntoF, writes op hop]
      · rw [h]; rfl
    exact execForm_of_refusal (refusalOf_of_flagsIntoF hpc hdest) s

/-- Settles O44: the guard lets the form pass, and of the stops of a memory access one alone is a refusal. -/
theorem nothingElseRefused : Obligations.NothingElseRefused := by
  intro i s r hwf h
  rcases exec_outcomes i s with ⟨t, hnext⟩ | ⟨r', hr', -⟩ | ⟨e, he, hstop⟩
  · nomatch h.symm.trans hnext
  · nomatch (refusalOf_eq_none.mpr hwf).symm.trans hr'
  · cases he with
    | unpopulated a => nomatch h.symm.trans hstop
    | unwritten a => nomatch h.symm.trans hstop
    | flashStore a => cases h.symm.trans hstop; exact ⟨a, rfl⟩

end Sys2Proof.Certificates
end

section
/-! PROOFS. The words that are no instruction (spec/30_encoding.md R105 to R108): where the machine fetches, what the
decoder rejects is the fault of the step, and which first words and which extension words it rejects. -/

namespace Sys2Proof

open Sys2Proof.Machine

/-! ### The upper bytes of the opcode map (30 R100, R105) -/

/-- A byte has no layout exactly when its number is none of the numbers of the map. -/
theorem lookup_eq_none_iff (u : Byte) :
    opcodeMap.lookup u = none ↔ u.toNat ∉ opcodeMap.map fun x => x.1.toNat := by
  rw [List.lookup_eq_none_iff]
  simp only [List.mem_map, not_exists, not_and, bne_iff_ne]
  exact forall₂_congr fun x _ => ⟨fun h e => h (BitVec.eq_of_toNat_eq e.symm), fun h e => h (congrArg _ e.symm)⟩

/-- A layout that rejects the control code says why: the mode code, or the bits that must be zero (30 R106, R107). -/
theorem Layout.head_ne_undefinedOpcode (p : Params) (l : Layout) (hi lo : BitVec 4) :
    l.head p hi lo ≠ .error .undefinedOpcode := by
  have mode {g : Mode → Head} : (modeOf hi).map g ≠ .error .undefinedOpcode := by
    unfold modeOf
    split <;> nofun
  have zero {n : Nat} {v : BitVec n} {h : Head} : whenZero p v h ≠ .error .undefinedOpcode := by
    unfold whenZero
    split <;> nofun
  have ones {w : Word} {h : Head} : whenOnes p w h ≠ .error .undefinedOpcode := by
    unfold whenOnes
    split <;> nofun
  cases l with
  | rmLoad => exact mode
  | rm op => exact mode
  | bRM c j => exact mode
  | rmStore =>
    simp only [Layout.head, modeOf]
    cases modeMap.lookup hi with
    | none => nofun
    | some m => cases m <;> nofun
  | r1 op => exact zero
  | r1Push => exact zero
  | r1Pop => exact zero
  | bR1 b j => exact zero
  | b0Jump j => exact zero
  | b0Call j => exact zero
  | n0Ret => exact zero
  | n0Reti => exact zero
  | wHalt => exact ones
  | wNop => exact ones
  | _ => nofun

/-- The first word is rejected as undefined exactly when its upper byte has no layout (30 R105). -/
theorem decodeHead_eq_undefinedOpcode {p : Params} {w : Word} :
    decodeHead p w = .error .undefinedOpcode ↔ opcodeMap.lookup (upperByte w) = none := by
  rcases decodeHead_cases p w with ⟨hnone, herr⟩ | ⟨l, hu, -, hl⟩
  · exact ⟨fun _ => hnone, fun _ => herr⟩
  · rw [hl, hu, lookup_upper]
    exact ⟨fun h => absurd h (Layout.head_ne_undefinedOpcode p l _ _), nofun⟩

/-! ### What the control code of a layout holds (30 R84, R101 to R103) -/

/-- The kinds of control code. -/
inductive Control
  /-- Two fields whose every value is taken: `RR`, `RB`, `B-RB`, `B-RR`. -/
  | fields
  /-- A mode code in bits 7:4: `RM`, `B-RM`. -/
  | mode
  /-- Zeros in bits 7:4: `R1`, `B-R1`. -/
  | zeroNibble
  /-- Zeros in bits 7:0: `B-0`, `N0`. -/
  | zeros
  /-- Ones in bits 7:0: `W`. -/
  | ones
  deriving DecidableEq

/-- The kind of control code of each layout (30 R101 to R103). -/
def Layout.control : Layout → Control
  | .rrMove | .rr _ | .rbSet | .rbReset | .bRB _ _ | .bRR _ _ => .fields
  | .rmLoad | .rmStore | .rm _ | .bRM _ _ => .mode
  | .r1 _ | .r1Push | .r1Pop | .bR1 _ _ => .zeroNibble
  | .b0Jump _ | .b0Call _ | .n0Ret | .n0Reti => .zeros
  | .wHalt | .wNop => .ones

/-- The bytes of a list all have layouts with one kind of control code. -/
def controlIs (c : Control) (bytes : List Nat) : Prop :=
  ∀ n ∈ bytes, (opcodeMap.lookup (BitVec.ofNat 8 n)).map Layout.control = some c

theorem controlIs.layout {c : Control} {bytes : List Nat} (h : controlIs c bytes) {u : Byte} (hu : u.toNat ∈ bytes) :
    ∃ l : Layout, u = l.upper ∧ l.control = c := by
  have hn := h _ hu
  rw [BitVec.ofNat_toNat, BitVec.setWidth_eq] at hn
  obtain ⟨l, hl, hc⟩ := Option.map_eq_some_iff.mp hn
  exact ⟨l, eq_upper_of_lookup hl, hc⟩

/-- A first word with an upper byte of such a list is one of those layouts with two nibbles. -/
theorem controlIs.firstWord {c : Control} {bytes : List Nat} (h : controlIs c bytes) {w : Word}
    (hw : w.toNat / 256 ∈ bytes) :
    ∃ l : Layout, l.control = c ∧ w = Sys2Proof.firstWord l.upper (highNibble w) (lowNibble w) := by
  rw [← upperByte_toNat] at hw
  obtain ⟨l, hl, hc⟩ := h.layout hw
  exact ⟨l, hc, hl ▸ firstWord_fields w⟩

theorem whenZero_of_lenient {n : Nat} {p : Params} (hp : p.strictDecode = false) (v : BitVec n) (h : Head) :
    whenZero p v h = .ok h := by
  simp [whenZero, hp]

theorem whenOnes_of_lenient {p : Params} (hp : p.strictDecode = false) (w : Word) (h : Head) :
    whenOnes p w h = .ok h := by
  simp [whenOnes, hp]

theorem whenZero_of_strict {n : Nat} {p : Params} (hp : p.strictDecode = true) {v : BitVec n} (hv : v ≠ 0) (h : Head) :
    whenZero p v h = .error .mustBeZero := by
  have hv' : (v != 0) = true := bne_iff_ne.mpr hv
  simp only [whenZero, hp, hv', Bool.and_self, if_true]

theorem whenOnes_of_strict {p : Params} (hp : p.strictDecode = true) {w : Word} (hw : w.extractLsb' 0 8 ≠ 0xFF#8)
    (h : Head) : whenOnes p w h = .error .mustBeZero := by
  simp [whenOnes, hp, hw]

/-- A mode code that is unassigned is rejected by every layout with a mode field (30 R106). -/
theorem Layout.head_of_reservedMode {l : Layout} (hl : l.control = .mode) (p : Params) {hi : BitVec 4} (lo : BitVec 4)
    (hm : modeMap.lookup hi = none) : l.head p hi lo = .error .reservedMode := by
  have hmode : modeOf hi = .error .reservedMode := by simp only [modeOf, hm]
  cases l with
  | rmLoad => simp only [Layout.head, hmode]; rfl
  | rmStore => simp only [Layout.head, hmode]
  | rm op => simp only [Layout.head, hmode]; rfl
  | bRM c j => simp only [Layout.head, hmode]; rfl
  | _ => nomatch hl

/-- A layout with zeros in bits 7:4 takes its head from bits 3:0 alone. -/
theorem Layout.head_of_zeroNibble {l : Layout} (hl : l.control = .zeroNibble) (lo : BitVec 4) :
    ∃ h : Head, ∀ p hi, l.head p hi lo = whenZero p hi h := by
  cases l with
  | r1 op => exact ⟨_, fun _ _ => rfl⟩
  | r1Push => exact ⟨_, fun _ _ => rfl⟩
  | r1Pop => exact ⟨_, fun _ _ => rfl⟩
  | bR1 b j => exact ⟨_, fun _ _ => rfl⟩
  | _ => nomatch hl

/-- A layout with zeros in bits 7:0 has one head. -/
theorem Layout.head_of_zeros {l : Layout} (hl : l.control = .zeros) :
    ∃ h : Head, ∀ p hi lo, l.head p hi lo = whenZero p (hi ++ lo) h := by
  cases l with
  | b0Jump j => exact ⟨_, fun _ _ _ => rfl⟩
  | b0Call j => exact ⟨_, fun _ _ _ => rfl⟩
  | n0Ret => exact ⟨_, fun _ _ _ => rfl⟩
  | n0Reti => exact ⟨_, fun _ _ _ => rfl⟩
  | _ => nomatch hl

/-- A layout with ones in bits 7:0 has one head. -/
theorem Layout.head_of_ones {l : Layout} (hl : l.control = .ones) :
    ∃ h : Head, ∀ p hi lo, l.head p hi lo = whenOnes p (Sys2Proof.firstWord l.upper hi lo) h := by
  cases l with
  | wHalt => exact ⟨_, fun _ _ _ => rfl⟩
  | wNop => exact ⟨_, fun _ _ _ => rfl⟩
  | _ => nomatch hl

/-- Under STRICT_DECODE a word that breaks the bits its layout prints is rejected (30 R107). -/
theorem decodeHead_of_broken_bits {p : Params} (hp : p.strictDecode = true) {w : Word} {l : Layout}
    (hw : w = firstWord l.upper (highNibble w) (lowNibble w))
    (hb : l.control = .zeroNibble ∧ w.toNat / 16 % 16 ≠ 0 ∨ l.control = .zeros ∧ w.toNat % 256 ≠ 0 ∨
      l.control = .ones ∧ w.toNat % 256 ≠ 0xFF) :
    decodeHead p w = .error .mustBeZero := by
  have hc : w.extractLsb' 0 8 = highNibble w ++ lowNibble w := by
    conv_lhs => rw [hw]
    exact controlCode_firstWord _ _ _
  have hd : decodeHead p w = l.head p (highNibble w) (lowNibble w) := by
    conv_lhs => rw [hw]
    exact decodeHead_firstWord p l _ _
  rw [hd]
  rcases hb with ⟨hl, hn⟩ | ⟨hl, hn⟩ | ⟨hl, hn⟩
  · obtain ⟨h, hh⟩ := Layout.head_of_zeroNibble hl (lowNibble w)
    rw [hh]
    exact whenZero_of_strict hp (fun e => hn (by rw [← highNibble_toNat, e]; rfl)) h
  · obtain ⟨h, hh⟩ := Layout.head_of_zeros hl
    rw [hh, ← hc]
    exact whenZero_of_strict hp (fun e => hn (by rw [← controlCode_toNat, e]; rfl)) h
  · obtain ⟨h, hh⟩ := Layout.head_of_ones hl
    rw [hh, ← hw]
    exact whenOnes_of_strict hp (fun e => hn (by rw [← controlCode_toNat, e]; rfl)) h

/-- Two first words that fix the same head decode alike. -/
theorem decode_congr {p : Params} {w w' : Word} (h : decodeHead p w = decodeHead p w') (es : List Word) :
    decode p (w :: es) = decode p (w' :: es) := by
  rw [decode, decode, h]

/-! ### Why extension words are rejected (30 R108) -/

/-- Extension words are rejected for an unused byte or for being too few, and for nothing else. -/
def RejectsWords {α : Type} (x : Except DecodeError α) : Prop := ∀ e, x = .error e → e = .addressJunk ∨ e = .tooShort

theorem RejectsWords.ok {α : Type} (a : α) : RejectsWords (.ok a) := nofun

theorem RejectsWords.map {α β : Type} {x : Except DecodeError α} (h : RejectsWords x) (g : α → β) :
    RejectsWords (x.map g) := by
  cases x with
  | error e => rintro _ ⟨⟩; exact h e rfl
  | ok a => exact .ok _

theorem RejectsWords.bind {α β : Type} {x : Except DecodeError α} {g : α → Except DecodeError β} (hx : RejectsWords x)
    (hg : ∀ a, RejectsWords (g a)) : RejectsWords (x >>= g) := by
  cases x with
  | error e => rintro _ ⟨⟩; exact hx e rfl
  | ok a => exact hg a

theorem takeWord_rejectsWords (es : List Word) : RejectsWords (takeWord es) := by
  cases es with
  | nil => rintro _ ⟨⟩; exact .inr rfl
  | cons e es => exact .ok _

theorem takeAddr_rejectsWords (p : Params) (es : List Word) : RejectsWords (takeAddr p es) := by
  unfold takeAddr
  split
  · split
    · rintro _ ⟨⟩; exact .inl rfl
    · exact .ok _
  · rintro _ ⟨⟩; exact .inr rfl

theorem takePlace_rejectsWords (p : Params) (m : PlaceMode) (es : List Word) : RejectsWords (takePlace p m es) := by
  cases m with
  | absolute => exact (takeAddr_rejectsWords p es).map _
  | indirectY => exact .ok _
  | indirectZ => exact .ok _
  | direct => exact (takeWord_rejectsWords es).map _
  | relative => exact (takeWord_rejectsWords es).map _
  | indexedY => exact (takeWord_rejectsWords es).map _
  | indexedZ => exact (takeWord_rejectsWords es).map _

theorem takeSource_rejectsWords (p : Params) (m : Mode) (es : List Word) : RejectsWords (takeSource p m es) := by
  cases m with
  | immediate => exact (takeWord_rejectsWords es).map _
  | place m => exact (takePlace_rejectsWords p m es).map _

theorem takeTarget_rejectsWords (p : Params) (j : Jump) (es : List Word) : RejectsWords (takeTarget p j es) := by
  cases j with
  | relative => exact (takeWord_rejectsWords es).map _
  | absolute => exact (takeAddr_rejectsWords p es).map _

theorem takeSourceAndTarget_rejectsWords (p : Params) (m : Mode) (j : Jump) (es : List Word) :
    RejectsWords (takeSourceAndTarget p m j es) := by
  unfold takeSourceAndTarget
  split
  · exact (takeSource_rejectsWords p m es).bind fun _ => (takeTarget_rejectsWords p j _).bind fun _ => .ok _
  · exact (takeTarget_rejectsWords p j es).bind fun _ => (takeSource_rejectsWords p m _).bind fun _ => .ok _

theorem complete_rejectsWords (p : Params) (h : Head) (es : List Word) : RejectsWords (h.complete p es) := by
  cases h with
  | whole f => exact .ok _
  | load rd m => exact (takeSource_rejectsWords p m es).map _
  | store rs m => exact (takePlace_rejectsWords p m es).map _
  | alu op rd m => exact (takeSource_rejectsWords p m es).map _
  | bitBranch b rs f j => exact (takeTarget_rejectsWords p j es).map _
  | countBranch b rd j => exact (takeTarget_rejectsWords p j es).map _
  | compareReg c rs rs2 j => exact (takeTarget_rejectsWords p j es).map _
  | compareMode c rs m j => exact (takeSourceAndTarget_rejectsWords p m j es).map _
  | jump j => exact (takeTarget_rejectsWords p j es).map _
  | call j => exact (takeTarget_rejectsWords p j es).map _

/-! ### Extension words with an unused byte (30 R92, R97, R108) -/

theorem addrWordsWith_length (o : AddrOrder) (j : Byte) (a : Addr) : (addrWordsWith o j a).length = 2 := by
  cases o <;> rfl

theorem placeWith_length (p : Params) (j : Byte) (q : Place) : (placeWith p j q).length = q.mode.words := by
  cases q with
  | absolute a => exact addrWordsWith_length _ j a
  | _ => rfl

theorem operandWith_length (p : Params) (j : Byte) (src : Source) :
    (operandWith p j (.source src)).length = src.mode.words := by
  cases src with
  | immediate v => rfl
  | memory q => exact placeWith_length p j q

theorem targetWith_length (p : Params) (j : Byte) (t : Target) : (targetWith p j t).length = t.jump.words := by
  cases t with
  | relative o => rfl
  | absolute a => exact addrWordsWith_length _ j a

/-- Whatever the unused bytes hold, the extension words are as many as the head asks for (30 R98). -/
theorem extWith_length (p : Params) (jo jt : Byte) (f : Form) : (extWith p jo jt f).length = f.head.extWords := by
  cases f with
  | load rd src => exact operandWith_length p jo src
  | store rs q => exact placeWith_length p jo q
  | alu op rd o =>
    cases o with
    | register rs => rfl
    | source src => exact operandWith_length p jo src
  | compare c rs o t =>
    cases o with
    | register rs2 => rw [extWith_compareReg, targetWith_length]; rfl
    | source src =>
      simp only [extWith, Form.head, Head.extWords]
      split
      · rw [List.length_append, operandWith_length, targetWith_length]
      · rw [List.length_append, operandWith_length, targetWith_length, Nat.add_comm]
  | bitBranch b rs f t => exact targetWith_length p jt t
  | countBranch b rd t => exact targetWith_length p jt t
  | jump t => exact targetWith_length p jt t
  | call t => exact targetWith_length p jt t
  | _ => rfl

theorem segment_toNat (a : Addr) : (Machine.segment a).toNat = a.toNat / 65536 := by
  have := a.isLt
  simp only [Machine.segment, BitVec.extractLsb'_toNat, Nat.shiftRight_eq_div_pow]
  omega

/-- Any two words are those of an address with some unused byte: the upper byte of the high one (30 R92). -/
theorem addrWordsWith_joinAddr (hi lo : Word) :
    addrWordsWith .highFirst (upperByte hi) (joinAddr hi lo) = [hi, lo] ∧
      addrWordsWith .lowFirst (upperByte hi) (joinAddr hi lo) = [lo, hi] := by
  have hlt := lo.isLt
  have hhi : (upperByte hi ++ Machine.segment (joinAddr hi lo) : Word) = hi := by
    apply BitVec.eq_of_toNat_eq
    rw [BitVec.toNat_append, ← Nat.shiftLeft_add_eq_or_of_lt (Machine.segment _).isLt, Nat.shiftLeft_eq,
      upperByte_toNat, segment_toNat, joinAddr_toNat]
    omega
  simp only [addrWordsWith, hhi, lowPart_joinAddr, and_self]

/-- An absolute address with any unused byte, as the target of jmp and as the operand of ld (30 R92, R97). -/
theorem decode_addrWordsWith (p : Params) (rd : Reg) (j : Byte) (a : Addr) (rest : List Word) :
    decode p (0xAA00 :: addrWordsWith p.instrOrder j a ++ rest) =
      unlessJunk (p.strictDecode && j != 0) (.jmpAbs a, rest) ∧
    decode p (firstWord 0x03 0b0011 (numberField rd) :: addrWordsWith p.instrOrder j a ++ rest) =
      unlessJunk (p.strictDecode && j != 0) (.ldAbsolute rd a, rest) := by
  have hjmp : hasJunk 0 j (Instr.jmpAbs a).form = (j != 0) := hasJunk_jump (.absolute a)
  have hld : hasJunk j 0 (Instr.ldAbsolute rd a).form = (j != 0) := hasJunk_load rd (.memory (.absolute a))
  have hfirst : (Instr.jmpAbs a).form.first = 0xAA00 := by
    show firstWord (0xA8 ||| 0x02) 0 0 = 0xAA00
    decide
  have hdecode := decode_extWith p 0 j (.jmpAbs a) rest
  rw [hjmp, hfirst] at hdecode
  exact ⟨hdecode, hld ▸ decode_extWith p j 0 (.ldAbsolute rd a) rest⟩

end Sys2Proof

namespace Sys2Proof.Machine

/-! ### The step at a boundary that fetches (00 R12) -/

section Fetching

variable {s : State} {w : Word}

/-- At a boundary that fetches there is no input, and nothing comes before the fetch. -/
theorem step_of_fetching (hf : s.fetching = true) :
    step s = boundary s ∧ s.resetAsserted = false ∧ s.dueInterrupt = none ∧ s.halted = false := by
  simp only [State.fetching, Bool.and_eq_true, Bool.not_eq_true', List.isEmpty_iff, Option.isNone_iff_eq_none] at hf
  obtain ⟨⟨⟨hinputs, hreset⟩, hdue⟩, hhalt⟩ := hf
  exact ⟨by simp only [step, State.takeInputs, hinputs], hreset, hdue, hhalt⟩

theorem step_of_fetch_ok {i : Instr} {t : State} (hf : s.fetching = true) (h : fetch s = .ok (i, t)) :
    step s = exec i t := by
  obtain ⟨hstep, hreset, hdue, hhalt⟩ := step_of_fetching hf
  exact hstep.trans (boundary_of_fetch hreset hdue hhalt h)

theorem step_of_fetch_error {e : Stop} (hf : s.fetching = true) (h : fetch s = .error e) : step s = e.outcome := by
  obtain ⟨hstep, hreset, hdue, hhalt⟩ := step_of_fetching hf
  rw [hstep]
  simp [boundary, hreset, hdue, hhalt, h]

/-- A first word that the decoder rejects is the fault of the step (30 R105 to R107). -/
theorem step_of_decodeHead_error {e : DecodeError} (hf : s.fetching = true) (hw : s.holds s.pc w = true)
    (h : decodeHead s.params w = .error e) : step s = .fault (.reservedInstruction w e) := by
  have hfetch : fetch s = .error (.fault (.reservedInstruction w e)) := by
    simp only [fetch, State.memRead_of_holds hw, ok_bind, h]
  exact step_of_fetch_error hf hfetch

/-- Extension words that the decoder rejects are the fault of the step (30 R108). -/
theorem step_of_complete_error {h : Head} {es : List Word} {e : DecodeError} (hf : s.fetching = true)
    (hw : s.holdsWords s.pc (w :: es)) (hhead : decodeHead s.params w = .ok h) (hlen : es.length = h.extWords)
    (hc : h.complete s.params es = .error e) : step s = .fault (.reservedInstruction w e) := by
  obtain ⟨hfirst, hrest⟩ := State.holdsWords_cons.mp hw
  have hread : readWords h.extWords (s.pc + 1) s = .ok (es, s) := hlen ▸ readWords_of_holdsWords hrest
  have hfetch : fetch s = .error (.fault (.reservedInstruction w e)) := by
    simp only [fetch, State.memRead_of_holds hfirst, ok_bind, hhead, hread, hc]
  exact step_of_fetch_error hf hfetch

/-- A fetch that stops does so where memory is accessed, or for what the decoder says of the words (30 R105 to R108). -/
theorem fetch_eq_error {e : Stop} (hw : s.holds s.pc w = true) (h : fetch s = .error e) :
    AccessStop e ∨ (∃ d, decodeHead s.params w = .error d ∧ e = .fault (.reservedInstruction w d)) ∨
      ∃ hd es d, Head.complete s.params hd es = .error d ∧ e = .fault (.reservedInstruction w d) := by
  simp only [fetch, State.memRead_of_holds hw, ok_bind] at h
  split at h
  next d hd => cases h; exact .inr (.inl ⟨d, hd, rfl⟩)
  next hd _ =>
    cases hr : readWords hd.extWords (s.pc + 1) s with
    | error e' =>
      rw [hr] at h
      cases h
      exact .inl (readWords_stopsAtAccess _ _ _ _ hr)
    | ok est =>
      obtain ⟨es, t⟩ := est
      simp only [hr, ok_bind] at h
      split at h
      next d hc => cases h; exact .inr (.inr ⟨hd, es, d, hc, rfl⟩)
      next => nomatch h

/-- No instruction ends in the fault of a fetch: the words were decoded before (30 R99). -/
theorem exec_ne_reservedInstruction (i : Instr) (s : State) (w : Word) (d : DecodeError) :
    exec i s ≠ .fault (.reservedInstruction w d) := by
  intro h
  rcases exec_outcomes i s with ⟨t, hnext⟩ | ⟨r, -, href⟩ | ⟨e, he, hstop⟩
  · nomatch h.symm.trans hnext
  · nomatch h.symm.trans href
  · cases he <;> nomatch h.symm.trans hstop

end Fetching

end Sys2Proof.Machine
namespace Sys2Proof.Certificates

open Sys2Proof.Machine

/-- Settles O5: the head is rejected as undefined exactly for the bytes with no layout, and neither the extension words
nor an instruction that runs gives that fault. -/
theorem undefinedUpperByteFaults : Obligations.UndefinedUpperByteFaults := by
  intro s w hf hw
  have hbyte : decodeHead s.params w = .error .undefinedOpcode ↔
      w.toNat / 256 ∉ opcodeMap.map fun x => x.1.toNat := by
    rw [decodeHead_eq_undefinedOpcode, lookup_eq_none_iff, upperByte_toNat]
  refine Iff.trans ⟨fun h => ?_, step_of_decodeHead_error hf hw⟩ hbyte
  cases hfetch : fetch s with
  | ok it => exact absurd ((step_of_fetch_ok hf hfetch).symm.trans h) (exec_ne_reservedInstruction it.1 it.2 w _)
  | error e =>
    have hstop : e.outcome = .fault (.reservedInstruction w .undefinedOpcode) :=
      (step_of_fetch_error hf hfetch).symm.trans h
    rcases fetch_eq_error hw hfetch with ha | ⟨d, hd, rfl⟩ | ⟨hd, es, d, hc, rfl⟩
    · cases ha <;> nomatch hstop
    · cases hstop; exact hd
    · cases hstop
      rcases complete_rejectsWords _ hd es _ hc with h' | h' <;> nomatch h'

/-- Settles O6: the fifteen bytes are the layouts with a mode field, and the eight codes are not in the mode map; a
store in Immediate mode is rejected by its own layout. -/
theorem reservedModesFault : Obligations.ReservedModesFault := by
  intro s w hf hw hbyte hmode
  refine step_of_decodeHead_error hf hw ?_
  rcases hmode with hcode | ⟨hstore, himm⟩
  · have hbytes : controlIs .mode [0x03, 0x05, 0x41, 0x49, 0x51, 0x53, 0x55, 0x99, 0x9B, 0x9D, 0x9F, 0xA1, 0xA3, 0xA5,
        0xA7] := by unfold controlIs; decide
    have hcodes : ∀ n ∈ [0b0000, 0b0111, 0b1000, 0b1001, 0b1010, 0b1011, 0b1100, 0b1111],
        modeMap.lookup (BitVec.ofNat 4 n) = none := by decide
    have hm : modeMap.lookup (highNibble w) = none := by
      have h := hcodes _ hcode
      rwa [← highNibble_toNat, BitVec.ofNat_toNat, BitVec.setWidth_eq] at h
    obtain ⟨l, hl, hw'⟩ := hbytes.firstWord hbyte
    rw [hw', decodeHead_firstWord]
    exact l.head_of_reservedMode hl _ _ hm
  · have hu : upperByte w = Layout.rmStore.upper := BitVec.eq_of_toNat_eq (by rw [upperByte_toNat, hstore]; rfl)
    have hn : highNibble w = Mode.immediate.code := BitVec.eq_of_toNat_eq (by rw [highNibble_toNat, himm]; rfl)
    rw [firstWord_fields w, hu, hn, decodeHead_firstWord]
    rfl

/-- Settles O7: each list of bytes is the layouts with one kind of control code; under STRICT_DECODE such a layout
rejects the broken bits, and otherwise its head does not depend on them. -/
theorem mustBeZeroBits : Obligations.MustBeZeroBits := by
  have hnibble : controlIs .zeroNibble [0x44, 0x4C, 0x56, 0x58, 0x5A, 0x5C, 0x5E, 0x60, 0xC0, 0xC2, 0x90, 0x92, 0x94,
      0x96] := by unfold controlIs; decide
  have hzeros : controlIs .zeros [0xA8, 0xAA, 0xAC, 0xAE, 0xB0, 0xB4] := by unfold controlIs; decide
  have hones : controlIs .ones [0xFE, 0xFF] := by unfold controlIs; decide
  refine ⟨fun s w hf hw hp hbroken => step_of_decodeHead_error hf hw ?_, fun p u hi lo hi' lo' es hp => ⟨?_, ?_⟩⟩
  · rcases hbroken with ⟨hb, hn⟩ | ⟨hb, hn⟩ | ⟨hb, hn⟩
    · obtain ⟨l, hl, hw'⟩ := hnibble.firstWord hb
      exact decodeHead_of_broken_bits hp hw' (.inl ⟨hl, hn⟩)
    · obtain ⟨l, hl, hw'⟩ := hzeros.firstWord hb
      exact decodeHead_of_broken_bits hp hw' (.inr (.inl ⟨hl, hn⟩))
    · obtain ⟨l, hl, hw'⟩ := hones.firstWord hb
      exact decodeHead_of_broken_bits hp hw' (.inr (.inr ⟨hl, hn⟩))
  · intro hu
    obtain ⟨l, rfl, hl⟩ := hnibble.layout hu
    obtain ⟨h, hh⟩ := Layout.head_of_zeroNibble hl lo
    refine decode_congr ?_ es
    simp only [decodeHead_firstWord, hh, whenZero_of_lenient hp]
  · intro hu
    refine decode_congr ?_ es
    have hu' : u.toNat ∈ [0xA8, 0xAA, 0xAC, 0xAE, 0xB0, 0xB4] ∨ u.toNat ∈ [0xFE, 0xFF] :=
      List.mem_append.mp hu
    rcases hu' with hu | hu
    · obtain ⟨l, rfl, hl⟩ := hzeros.layout hu
      obtain ⟨h, hh⟩ := Layout.head_of_zeros hl
      simp only [decodeHead_firstWord, hh, whenZero_of_lenient hp]
    · obtain ⟨l, rfl, hl⟩ := hones.layout hu
      obtain ⟨h, hh⟩ := Layout.head_of_ones hl
      simp only [decodeHead_firstWord, hh, whenOnes_of_lenient hp]

/-- Settles O8: in the first two clauses the words are read back with any unused byte; the third takes any two words as
an address with its unused byte, as the target of jmp and as the operand of ld. -/
theorem addressUnusedByte : Obligations.AddressUnusedByte := by
  refine ⟨fun p i jo jt rest => ?_, fun s i jo jt hf hw hp hj => ?_, fun p rd hi lo ws rest hws => ?_⟩
  · rw [decode_extWith]
    simp only [unlessJunk, Bool.and_eq_true, hasJunk_iff]
  · have hc := complete_extWith s.params jo jt i.form []
    rw [List.append_nil, hp, hasJunk_iff.mpr hj] at hc
    exact step_of_complete_error hf hw (decodeHead_first _ _) (extWith_length _ jo jt _) hc
  · have hws' : ws = addrWordsWith p.instrOrder (upperByte hi) (joinAddr hi lo) := by
      obtain ⟨hhigh, hlow⟩ := addrWordsWith_joinAddr hi lo
      cases ho : p.instrOrder <;> simp only [hws, ho, hhigh, hlow]
    have hbyte : upperByte hi = 0 ↔ hi.toNat < 256 := by
      rw [← BitVec.toNat_inj, upperByte_toNat]
      simp [Nat.div_eq_zero_iff]
    obtain ⟨hjmp, hld⟩ := decode_addrWordsWith p rd (upperByte hi) (joinAddr hi lo) rest
    rw [← hws'] at hjmp hld
    refine ⟨fun hp h256 => ?_, fun hgood => ⟨joinAddr hi lo, joinAddr_toNat hi lo, ?_⟩⟩
    · have hbad : (p.strictDecode && upperByte hi != 0) = true := by
        simp only [hp, Bool.true_and, bne_iff_ne, ne_eq, hbyte]
        omega
      rw [hbad] at hjmp hld
      exact ⟨hjmp, hld⟩
    · have hgood' : (p.strictDecode && upperByte hi != 0) = false := by
        rcases hgood with hp | hlt
        · simp [hp]
        · simp [hbyte.mpr hlt]
      rw [hgood'] at hjmp hld
      exact ⟨hjmp, hld⟩

end Sys2Proof.Certificates
end

section
/-! PROOFS. Effective addresses and jump targets as numbers (spec/30_encoding.md R91 to R97, spec/10_state.md R24,
R25). -/

namespace Sys2Proof.Machine

theorem State.yAddr_toNat (s : State) :
    s.yAddr.toNat = (s.readReg 9).toNat % 256 * 65536 + (s.readReg 8).toNat := joinAddr_toNat _ _

theorem State.zAddr_toNat (s : State) :
    s.zAddr.toNat = (s.readReg 11).toNat % 256 * 65536 + (s.readReg 10).toNat := joinAddr_toNat _ _

/-- A word in the segment of the program counter (30 R91). -/
theorem State.ea_direct_toNat (s : State) (a : Word) :
    (s.ea (.direct a)).toNat = s.pc.toNat / 65536 * 65536 + a.toNat := by
  rw [State.ea, BitVec.toNat_append, ← Nat.shiftLeft_add_eq_or_of_lt a.isLt, Nat.shiftLeft_eq, segment_toNat]

end Sys2Proof.Machine

namespace Sys2Proof.Certificates

open Sys2Proof.Machine

/-- Settles O15: Direct joins the segment of PC0, Y and Z join two registers, and the offsets are sums modulo 2^24. -/
theorem effectiveAddresses : Obligations.EffectiveAddresses := fun s a off _ =>
  ⟨s.ea_direct_toNat a, rfl, add_sext24_toNat s.pc off, s.yAddr_toNat, s.zAddr_toNat, add_sext24_toNat s.yAddr off,
    add_sext24_toNat s.zAddr off⟩

/-- Settles O25: a relative target is an offset sum from PC0. -/
theorem targetArithmetic : Obligations.TargetArithmetic := fun s off _ => ⟨add_sext24_toNat s.pc off, rfl⟩

end Sys2Proof.Certificates
end

section
/-! PROOFS. Data transfer (spec/40_data_transfer.md R120 to R122): each instruction that goes through is given its next
state, which is a register write or a memory write followed by the program counter's advance; what it leaves unchanged is
what `ChangesOnly` and the memory lemmas say of it. -/

namespace Sys2Proof.Machine

section DataTransfer

variable {s t u : State}

/-! ### Any form: its words, its refusal, its guard (30 R80, R109) -/

theorem encode_instr (p : Params) (f : Form) : encode p f.instr = f.first :: f.ext p := by
  rw [encode, Form.instr_form]

/-- A form with a register field of 14 or 15 is refused in every state (30 R109 (a)). -/
theorem exec_instr_of_pcField {f : Form} {r : Reg} (hr : r ∈ f.registers) (h14 : 14 ≤ r.val) (s : State) :
    exec f.instr s = .refused .pcOperand := by
  rw [exec_instr]
  exact execForm_of_refusal (refusalOf_of_namesPc (Form.namesPc_eq_true.mpr ⟨r, hr, h14⟩)) s

/-- The guard passes a form that does not push or pop and does not write flags over R13, once its register fields are
below 14 (30 R109). -/
theorem guardForm_of_registers {f : Form} (hsp : f.stacksSp = false) (hf : f.flagsIntoF = false)
    (hlt : ∀ r ∈ f.registers, r.val < 14) : guardForm f = .ok () := by
  have hpc : f.namesPc = false := by
    rw [Bool.eq_false_iff, ne_eq, Form.namesPc_eq_true]
    rintro ⟨r, hr, h14⟩
    exact absurd (hlt r hr) (by omega)
  exact guardForm_of_wf (by simp [Form.wf, hpc, hsp, hf])

/-! ### What is left unchanged, in the terms of the statements -/

theorem ChangesOnly.untouched {l : List Reg} {fs : List Flag} (h : ChangesOnly l fs s t) : Untouched s t :=
  ⟨h.pchHigh, h.carries.irq, h.carries.halted, h.carries.resetAsserted, h.carries.inputs, h.carries.params⟩

theorem ChangesOnly.frame {l : List Reg} {fs : List Flag} (h : ChangesOnly l fs s t) (hm : t.mem = s.mem) :
    Frame l fs s t :=
  ⟨h.regs, h.flags, fun k => by rw [hm], h.untouched⟩

/-- A register written once the operand is read, and the program counter advanced: the register has the value, seen from
the state before the read too (10 R22, R34). -/
theorem wrote_writeReg_advance {r : Reg} (hr : r.val < 14) (v : Word) (n : Nat) (hf : u.flags = s.flags)
    (hp : u.params = s.params) : Wrote r v s ((u.writeReg r v).advance n) :=
  ((u.wrote_writeReg hr v).to_right hr (State.advance_flags n _) (State.advance_regs n _)).of_left hf hp

/-! ### ld and mv (40 R120, R122) -/

theorem loadInto_of_readable {rd : Reg} {src : Source} (hrd : rd.val < 14)
    (hread : s.operandReadable (.source src) = true) :
    loadInto rd src s =
      .ok (((s.afterOperand (.source src)).writeReg rd (s.operandValue (.source src))).advance (1 + src.words)) := by
  have hguard : guardForm (.load rd src) = .ok () := guardForm_of_registers rfl rfl (by simpa [Form.registers])
  simp only [loadInto, hguard, ok_bind, State.source_of_readable hread]

theorem moveWord_of_lt {rd rs : Reg} (hrd : rd.val < 14) (hrs : rs.val < 14) (s : State) :
    moveWord rd rs s = .ok ((s.writeReg rd (s.readReg rs)).advance 1) := by
  have hguard : guardForm (.move rd rs) = .ok () := guardForm_of_registers rfl rfl (by simp [Form.registers, hrd, hrs])
  simp only [moveWord, hguard, ok_bind]

/-! ### What a write does, by what answers (20 R52, R55) -/

theorem State.memWrite_of_device {a : Addr} (v : Word) (hk : kindAt s.params a = some .device) :
    s.memWrite a v = .ok { s with events := s.events ++ [.deviceWrite a v] } := by
  simp only [State.memWrite, hk]

theorem State.memWrite_of_ignoringFlash {a : Addr} (v : Word) (hk : kindAt s.params a = some .flash)
    (hf : s.params.flashStore = .ignore) : s.memWrite a v = .ok s := by
  simp only [State.memWrite, hk, hf]

theorem State.memWrite_of_refusingFlash {a : Addr} (v : Word) (hk : kindAt s.params a = some .flash)
    (hf : s.params.flashStore = .refuse) : s.memWrite a v = .error (.refused (.flashStore a)) := by
  simp only [State.memWrite, hk, hf]

theorem State.memWrite_of_unpopulated {a : Addr} (v : Word) (hk : kindAt s.params a = none) :
    s.memWrite a v = .error (.fault (.unpopulated a)) := by
  simp only [State.memWrite, hk]

/-! ### st (40 R121) -/

/-- Behind the guard st is the write at the effective address, and the advance where that goes through. -/
theorem storeFrom_of_lt {rs : Reg} (q : Place) (hrs : rs.val < 14) (s : State) :
    storeFrom rs q s = s.memWrite (s.ea q) (s.readReg rs) >>= fun u => .ok (u.advance (1 + q.words)) := by
  have hguard : guardForm (.store rs q) = .ok () := guardForm_of_registers rfl rfl (by simpa [Form.registers])
  simp only [storeFrom, hguard, ok_bind]

/-- A store whose write goes through ends in the state the write leaves, advanced. -/
theorem storeFrom_of_memWrite {rs : Reg} {q : Place} (hrs : rs.val < 14)
    (hw : s.memWrite (s.ea q) (s.readReg rs) = .ok u) : storeFrom rs q s = .ok (u.advance (1 + q.words)) := by
  rw [storeFrom_of_lt q hrs, hw, ok_bind]

/-- A store whose write stops, stops for the same reason. -/
theorem exec_store_of_memWrite_error {rs : Reg} {q : Place} {e : Stop} (hrs : rs.val < 14)
    (hw : s.memWrite (s.ea q) (s.readReg rs) = .error e) : exec (Form.store rs q).instr s = e.outcome := by
  rw [exec_instr, execForm, storeFrom_of_lt q hrs, hw, error_bind, finish]

end DataTransfer

end Sys2Proof.Machine

namespace Sys2Proof.Certificates

open Sys2Proof.Machine

/-- Settles O12: the operand is read, Rd written, the program counter advanced; the bus is that of the read. -/
theorem loadCompletes : Obligations.LoadCompletes := by
  intro rd src s
  refine ⟨fun hrd hread => ?_, fun h14 => exec_instr_of_pcField (List.mem_singleton_self rd) h14 s,
    fun p => encode_instr p _⟩
  have hload := loadInto_of_readable hrd hread
  refine ⟨_, (exec_instr _ s).trans (finish_eq_next.mpr hload), ?_, ?_, ?_, ?_⟩
  · rw [State.advance_pc, State.writeReg_pc hrd, State.afterOperand_pc]
  · exact wrote_writeReg_advance hrd _ _ (State.afterOperand_flags _ s) (State.afterOperand_params _ s)
  · exact (loadInto_changesOnly hload).frame (loadInto_mem hload)
  · simp [BusOf]

/-- Settles O13: the write at the effective address decides, one clause for each thing that can answer there. -/
theorem storeCompletes : Obligations.StoreCompletes := by
  intro rs q s
  refine ⟨fun hrs => ⟨fun hram => ?_, fun hdevice => ?_, fun hflash hignore => ?_, fun hflash hrefuse => ?_,
    fun hnone => ?_⟩, fun h14 => exec_instr_of_pcField (List.mem_singleton_self rs) h14 s, fun p => encode_instr p _⟩
  · have hstore := storeFrom_of_memWrite hrs (State.memWrite_of_ram _ (beq_iff_eq.mpr hram))
    exact ⟨_, (exec_instr _ s).trans (finish_eq_next.mpr hstore), Memory.readWord_writeWord_same _ _ _,
      storeFrom_memory hstore, rfl, rfl, rfl, ⟨rfl, rfl⟩, (storeFrom_changesOnly hstore).untouched⟩
  · have hstore := storeFrom_of_memWrite hrs (State.memWrite_of_device _ hdevice)
    exact ⟨_, (exec_instr _ s).trans (finish_eq_next.mpr hstore), rfl, rfl, rfl,
      (storeFrom_changesOnly hstore).frame rfl⟩
  · have hstore := storeFrom_of_memWrite hrs (State.memWrite_of_ignoringFlash _ hflash hignore)
    exact ⟨_, (exec_instr _ s).trans (finish_eq_next.mpr hstore), rfl, (storeFrom_changesOnly hstore).frame rfl,
      rfl, rfl⟩
  · exact exec_store_of_memWrite_error hrs (State.memWrite_of_refusingFlash _ hflash hrefuse)
  · exact exec_store_of_memWrite_error hrs (State.memWrite_of_unpopulated _ hnone)

/-- Settles O14: one register read, one written, the program counter advanced. -/
theorem moveCompletes : Obligations.MoveCompletes := by
  intro rd rs s
  refine ⟨fun hrd hrs => ?_, fun h14 => ?_, fun p => encode_instr p (.move rd rs)⟩
  · have hmove := moveWord_of_lt hrd hrs s
    refine ⟨_, (exec_instr (.move rd rs) s).trans (finish_eq_next.mpr hmove), ?_, ?_, ?_, ?_⟩
    · exact congrArg (· + 1) (State.writeReg_pc hrd _ s)
    · exact wrote_writeReg_advance hrd _ _ rfl rfl
    · exact (moveWord_changesOnly hmove).frame (moveWord_mem hmove)
    · simp [SameBus]
  · obtain ⟨r, hr, hr14⟩ : ∃ r ∈ (Form.move rd rs).registers, 14 ≤ r.val := by simpa [Form.registers] using h14
    exact exec_instr_of_pcField hr hr14 s

end Sys2Proof.Certificates
end

section
/-! PROOFS. Arithmetic and logic (spec/41_alu.md R130 to R146): an instruction with one result in R00 to R12 writes the
flags, the register and the program counter, once for the two-operand and the one-register operations. What the flags of
a sum and a difference say is said over the integers, and what the shifts and rotates do bit by bit. -/

namespace Sys2Proof.Machine

/-! ### The flags of a sum and a difference, as numbers (41 R132) -/

section Flags

variable (p : SubCarry) (a b : Word)

theorem addFlags_c : (addFlags a b).c = decide (2 ^ 16 ≤ a.toNat + b.toNat) := by
  simp only [addFlags, carryOut, Nat.mod_eq_of_lt a.isLt, Nat.mod_eq_of_lt b.isLt]

theorem addFlags_z : (addFlags a b).z = decide ((a.toNat + b.toNat) % 2 ^ 16 = 0) := by
  have hzero : a + b = 0 ↔ (a.toNat + b.toNat) % 2 ^ 16 = 0 := by
    rw [← BitVec.toNat_inj, BitVec.toNat_add]
    rfl
  exact (Bool.beq_eq_decide_eq _ _).trans (decide_eq_decide.mpr hzero)

theorem addFlags_n : (addFlags a b).n = decide (2 ^ 15 ≤ (a.toNat + b.toNat) % 2 ^ 16) := by
  rw [addFlags, BitVec.msb_eq_decide, BitVec.toNat_add]

/-- Two words of one sign whose sum has the other sign are those whose sum overflows. -/
theorem addFlags_of :
    (addFlags a b).of = decide (a.toInt + b.toInt < -2 ^ 15 ∨ 2 ^ 15 ≤ a.toInt + b.toInt) := by
  have hsigns : (addFlags a b).of = a.saddOverflow b := (BitVec.saddOverflow_eq a b).symm
  rw [hsigns, BitVec.saddOverflow, Bool.or_comm, ← Bool.decide_or]

/-- A borrow shows as a carry flag in the sense of SUB_CARRY. -/
theorem subCarryFlag_decide (P : Prop) [Decidable P] : subCarryFlag p (decide P) = carryOfBorrow p P := by
  cases p with
  | borrow => rfl
  | notBorrow => exact (decide_not).symm

theorem subFlags_c : (subFlags p a b).c = carryOfBorrow p (a.toNat < b.toNat) := by
  rw [subFlags, borrowInto, subCarryFlag_decide]
  simp only [Nat.mod_eq_of_lt a.isLt, Nat.mod_eq_of_lt b.isLt]

theorem subFlags_z : (subFlags p a b).z = decide (a.toNat = b.toNat) := by
  have hzero : a - b = 0 ↔ a.toNat = b.toNat := sub_eq_zero.trans BitVec.toNat_inj.symm
  exact (Bool.beq_eq_decide_eq _ _).trans (decide_eq_decide.mpr hzero)

theorem toNat_word_sub : (a - b).toNat = (a.toNat + 2 ^ 16 - b.toNat) % 2 ^ 16 := by
  have := b.isLt
  rw [BitVec.toNat_sub]
  congr 1
  omega

theorem subFlags_n : (subFlags p a b).n = decide (2 ^ 15 ≤ (a.toNat + 2 ^ 16 - b.toNat) % 2 ^ 16) := by
  rw [subFlags, BitVec.msb_eq_decide, toNat_word_sub]

/-- Two words of different signs whose difference has not the sign of the first are those whose difference overflows. -/
theorem subFlags_of :
    (subFlags p a b).of = decide (a.toInt - b.toInt < -2 ^ 15 ∨ 2 ^ 15 ≤ a.toInt - b.toInt) := by
  have hsigns : (subFlags p a b).of = a.ssubOverflow b := by
    rw [BitVec.ssubOverflow_eq, subFlags]
    cases a.msb <;> cases b.msb <;> cases (a - b).msb <;> rfl
  rw [hsigns, BitVec.ssubOverflow, Bool.or_comm, ← Bool.decide_or]

end Flags

/-- The difference modulo 2^16, over the integers (41 R135). -/
theorem toNat_word_sub_int (a b : Word) : ((a - b).toNat : Int) = ((a.toNat : Int) - b.toNat) % 2 ^ 16 := by
  have := a.isLt
  have := b.isLt
  rw [toNat_word_sub]
  omega

theorem sumFlags_of_updates {a b : Word} {t : State} (h : ∀ x ∈ (addFlags a b).updates, t.flag x.1 = x.2) :
    SumFlags a b t := by
  simp only [ArithFlags.updates, List.forall_mem_cons] at h
  obtain ⟨hc, hqc, hhc, htc, hz, hn, hof, -⟩ := h
  exact ⟨hc.trans (addFlags_c a b), htc, hhc, hqc, hz.trans (addFlags_z a b), hn.trans (addFlags_n a b),
    hof.trans (addFlags_of a b)⟩

theorem differenceFlags_of_updates {a b : Word} {t : State}
    (h : ∀ x ∈ (subFlags t.params.subCarry a b).updates, t.flag x.1 = x.2) : DifferenceFlags a b t := by
  simp only [ArithFlags.updates, List.forall_mem_cons] at h
  obtain ⟨hc, hqc, hhc, htc, hz, hn, hof, -⟩ := h
  exact ⟨hc.trans (subFlags_c _ a b), htc.trans (subCarryFlag_decide _ _), hhc.trans (subCarryFlag_decide _ _),
    hqc.trans (subCarryFlag_decide _ _), hz.trans (subFlags_z _ a b), hn.trans (subFlags_n _ a b),
    hof.trans (subFlags_of _ a b)⟩

/-- The one flag of a bitwise operation (41 R137 to R140). -/
theorem zeroFlag_of_update {r : Word} {t : State} (h : ∀ x ∈ zeroUpdate r, t.flag x.1 = x.2) :
    t.flag .z = decide (r = 0) :=
  (h _ (List.mem_singleton_self _)).trans (Bool.beq_eq_decide_eq r 0)

/-! ### The shifts, the rotates and the swap, bit by bit (41 R141 to R146) -/

section Bits

variable (a : Word) (c : Bool) {k : Nat}

theorem lsl_bit (hk : k < 16) :
    (unaryResult .lsl a c).getLsbD k = if k = 0 then c else a.getLsbD (k - 1) := by
  rw [unaryResult, BitVec.getLsbD_append, BitVec.getLsbD_ofBool, BitVec.getLsbD_extractLsb']
  by_cases h0 : k = 0
  · simp [h0]
  · simp [h0, show ¬ k < 1 by omega, show k - 1 < 15 by omega]

theorem lsr_bit (hk : k < 16) :
    (unaryResult .lsr a c).getLsbD k = if k = 15 then c else a.getLsbD (k + 1) := by
  rw [unaryResult, BitVec.getLsbD_append, BitVec.getLsbD_ofBool, BitVec.getLsbD_extractLsb']
  by_cases h15 : k = 15
  · simp [h15]
  · simp [h15, show k < 15 by omega, Nat.add_comm]

/-- lrl shifts in the bit that lsl shifts out (41 R143). -/
theorem lrl_bit (hk : k < 16) : (unaryResult .lrl a c).getLsbD k = a.getLsbD ((k + 15) % 16) := by
  refine (lsl_bit a a.msb hk).trans ?_
  split
  next h0 => subst h0; rfl
  next h0 => rw [show (k + 15) % 16 = k - 1 by omega]

/-- lrr shifts in the bit that lsr shifts out (41 R144). -/
theorem lrr_bit (hk : k < 16) : (unaryResult .lrr a c).getLsbD k = a.getLsbD ((k + 1) % 16) := by
  refine (lsr_bit a (a.getLsbD 0) hk).trans ?_
  split
  next h15 => subst h15; rfl
  next h15 => rw [show (k + 1) % 16 = k + 1 by omega]

theorem lsb_bit (hk : k < 16) : (unaryResult .lsb a c).getLsbD k = a.getLsbD ((k + 8) % 16) := by
  rw [unaryResult, BitVec.getLsbD_append, BitVec.getLsbD_extractLsb', BitVec.getLsbD_extractLsb']
  split
  next h8 => rw [show (k + 8) % 16 = 8 + k by omega]; simp [h8]
  next h8 => rw [show (k + 8) % 16 = 0 + (k - 8) by omega]; simp [show k - 8 < 8 by omega]

theorem not_bit (hk : k < 16) : (unaryResult .not a c).getLsbD k = !a.getLsbD k := by
  simp [unaryResult, hk]

end Bits

/-! ### Turning a ring of bits -/

/-- If one turn puts at each place of a ring of `m` what stood `d` places on, `n` turns put there what stood `n * d`
places on. -/
theorem ring_iterate {α : Type} {f : α → α} {bit : α → Nat → Bool} {m d : Nat} (hm : 0 < m)
    (hturn : ∀ x k, k < m → bit (f x) k = bit x ((k + d) % m)) (n : Nat) (x : α) {k : Nat} (hk : k < m) :
    bit (f^[n] x) k = bit x ((k + n * d) % m) := by
  induction n generalizing x with
  | zero => rw [Function.iterate_zero_apply, Nat.zero_mul, Nat.add_zero, Nat.mod_eq_of_lt hk]
  | succ n ih =>
    rw [Function.iterate_succ_apply, ih, hturn _ _ (Nat.mod_lt _ hm), Nat.mod_add_mod, Nat.add_assoc, Nat.succ_mul]

/-- `m` turns of a ring of `m` places come back to where they began. -/
theorem ring_full_turn {α : Type} {f : α → α} {bit : α → Nat → Bool} {m d : Nat} (hm : 0 < m)
    (hturn : ∀ x k, k < m → bit (f x) k = bit x ((k + d) % m)) (x : α) {k : Nat} (hk : k < m) :
    bit (f^[m] x) k = bit x k := by
  rw [ring_iterate hm hturn m x hk, Nat.add_mul_mod_self_left, Nat.mod_eq_of_lt hk]

/-- The ring of seventeen bits that lsl turns: a word, with the carry above it (41 R141). -/
def carryRing (x : Word × Bool) (k : Nat) : Bool := if k = 16 then x.2 else x.1.getLsbD k

theorem carryRing_ext {x y : Word × Bool} (h : ∀ k < 17, carryRing x k = carryRing y k) : x = y := by
  refine Prod.ext (BitVec.eq_of_getLsbD_eq fun k hk => ?_) (h 16 (by omega))
  have hbit := h k (by omega)
  rwa [carryRing, carryRing, if_neg (by omega), if_neg (by omega)] at hbit

theorem carryRing_lsl (x : Word × Bool) (k : Nat) (hk : k < 17) :
    carryRing (unaryResult .lsl x.1 x.2, x.1.getLsbD 15) k = carryRing x ((k + 16) % 17) := by
  by_cases h16 : k = 16
  · subst h16; rfl
  by_cases h0 : k = 0
  · subst h0
    exact lsl_bit x.1 x.2 (by omega)
  rw [carryRing, carryRing, if_neg h16, if_neg (by omega), lsl_bit x.1 x.2 (by omega), if_neg h0,
    show (k + 16) % 17 = k - 1 by omega]

/-! ### An instruction with one result (41 R130 to R146) -/

section Results

variable {s t : State}

/-- What an instruction of form `f` does that has the result `v` for `rd`, one of R00 to R12, and the flag updates `U`:
it goes through, with the operand `o` read, and changes nothing but `rd`, the flags its line lists and the program
counter. -/
structure Results (f : Form) (rd : Reg) (v : Word) (U : List (Flag × Bool)) (o : Operand) (s t : State) : Prop where
  next : exec f.instr s = .next t
  pc : t.pc = s.pc + BitVec.ofNat 24 (1 + o.words)
  value : t.readReg rd = v
  flags : ∀ x ∈ U, t.flag x.1 = x.2
  params : t.params = s.params
  frame : Frame [rd] (affectedFlags f) s t
  bus : BusOf o s t

/-- An instruction whose result and flags are those of a sum (41 R133, R134). -/
theorem Results.sum {f : Form} {rd : Reg} {a b : Word} {o : Operand}
    (h : Results f rd (a + b) (addFlags a b).updates o s t) :
    (t.readReg rd).toNat = (a.toNat + b.toNat) % 2 ^ 16 ∧ SumFlags a b t :=
  ⟨by rw [h.value, BitVec.toNat_add], sumFlags_of_updates h.flags⟩

/-- An instruction whose result and flags are those of a difference (41 R135, R136). -/
theorem Results.difference {f : Form} {rd : Reg} {a b : Word} {o : Operand}
    (h : Results f rd (a - b) (subFlags s.params.subCarry a b).updates o s t) :
    ((t.readReg rd).toNat : Int) = ((a.toNat : Int) - b.toNat) % 2 ^ 16 ∧ DifferenceFlags a b t :=
  ⟨by rw [h.value, toNat_word_sub_int], differenceFlags_of_updates (by rw [h.params]; exact h.flags)⟩

/-- An instruction whose one flag is the Z of its result (41 R137 to R140). -/
theorem Results.zero {f : Form} {rd : Reg} {v : Word} {o : Operand} (h : Results f rd v (zeroUpdate v) o s t) :
    t.flag .z = decide (t.readReg rd = 0) := by
  rw [h.value]
  exact zeroFlag_of_update h.flags

/-- An instruction whose flags are those of a shift (41 R141, R142). -/
theorem Results.shift {f : Form} {rd : Reg} {v : Word} {out : Bool} {o : Operand}
    (h : Results f rd v (shiftUpdates out v) o s t) : t.flag .c = out ∧ t.flag .z = decide (t.readReg rd = 0) := by
  obtain ⟨hc, hz⟩ := List.forall_mem_cons.mp h.flags
  rw [h.value]
  exact ⟨hc, zeroFlag_of_update hz⟩

/-- No instruction lists a flag that software cannot write (10 R32, R34). -/
theorem affectedFlags_writable (f : Form) : ∀ x ∈ affectedFlags f, x.writable = true := by
  cases f with
  | alu op rd o => cases op <;> simp [affectedFlags, Flag.writable]
  | unary op rd => cases op <;> simp [affectedFlags, Flag.writable]
  | _ => simp [affectedFlags, Flag.writable]

/-- The order of writing: operand read, flags, register, program counter. -/
theorem results_of_exec {f : Form} {rd : Reg} {v : Word} {U : List (Flag × Bool)} {o : Operand}
    (hw : s.params.wf = true) (hrd : rd.val < 13) (hlisted : ∀ x ∈ U, x.1 ∈ affectedFlags f)
    (honce : (U.map Prod.fst).Nodup) (hexec : exec f.instr s = .next t)
    (ht : t = (((s.afterOperand o).setFlags U).writeReg rd v).advance (1 + o.words)) : Results f rd v U o s t := by
  subst ht
  exact {
    next := hexec
    pc := by rw [State.advance_pc, State.writeReg_pc (by omega), State.setFlags_pc, State.afterOperand_pc]
    value := (State.readReg_congr hrd (State.advance_regs _ _)).trans (State.readReg_writeReg_same hrd v _)
    flags := fun x hx => result_flag hrd v _ (by rwa [State.afterOperand_params]) hx honce
      (affectedFlags_writable f _ (hlisted x hx))
    params := by simp
    frame := Frame.of_result hrd hlisted v _ o s
    bus := by simp [BusOf] }

theorem aluUpdates_once (p : SubCarry) (op : AluOp) (a b : Word) : ((aluUpdates p op a b).map Prod.fst).Nodup := by
  cases op <;> simp [aluUpdates, ArithFlags.updates, zeroUpdate]

theorem unaryUpdates_once (p : SubCarry) (op : UnaryOp) (a : Word) (c : Bool) :
    ((unaryUpdates p op a c).map Prod.fst).Nodup := by
  cases op <;> simp [unaryUpdates, ArithFlags.updates, zeroUpdate, shiftUpdates]

/-- The destination of an admitted two-operand form is one of R00 to R12 (30 R109 (a), (c)). -/
theorem Form.alu_dest_lt {op : AluOp} {rd : Reg} {o : Operand} (hwf : (Form.alu op rd o).wf = true) : rd.val < 13 := by
  have hlt : rd.val < 14 := Form.lt_of_wf hwf (by cases o <;> simp [Form.registers])
  have hne : rd ≠ 13 := by
    rintro rfl
    simp [Form.wf, Form.flagsIntoF] at hwf
  have : rd.val ≠ 13 := fun e => hne (Fin.ext e)
  omega

/-- A two-operand operation, in all nine forms (41 R130). -/
theorem alu_results {op : AluOp} {rd : Reg} {o : Operand} (hw : s.params.wf = true)
    (hwf : (Form.alu op rd o).wf = true) (hread : s.operandReadable o = true) :
    ∃ t, Results (.alu op rd o) rd (aluResult op (s.readReg rd) (s.operandValue o))
      (aluUpdates s.params.subCarry op (s.readReg rd) (s.operandValue o)) o s t := by
  refine ⟨_, results_of_exec hw (Form.alu_dest_lt hwf) (aluUpdates_affected rd o) (aluUpdates_once _ _ _ _) ?_ rfl⟩
  simp only [exec_instr, execForm, aluInto, guardForm_of_wf hwf, State.operand_of_readable hread, ok_bind, finish_ok]

/-- A one-register operation on an admitted register: the flags, the register, the program counter (41 R131). -/
theorem exec_unary {op : UnaryOp} {rd : Reg} (hlt : rd.val < 14) (hf : (Form.unary op rd).flagsIntoF = false)
    (s : State) :
    exec (Form.unary op rd).instr s = .next (((s.setFlags (unaryUpdates s.params.subCarry op (s.readReg rd)
      (s.flag .c))).writeReg rd (unaryResult op (s.readReg rd) (s.flag .c))).advance 1) := by
  have hguard : guardForm (.unary op rd) = .ok () := guardForm_of_registers rfl hf (by simpa [Form.registers])
  simp only [exec_instr, execForm, unaryOn, hguard, ok_bind, finish_ok]

/-- A one-register operation on R00 to R12; it reads no operand but the register (41 R131). -/
theorem unary_results (op : UnaryOp) {rd : Reg} (hw : s.params.wf = true) (hrd : rd.val < 13) :
    ∃ t, Results (.unary op rd) rd (unaryResult op (s.readReg rd) (s.flag .c))
      (unaryUpdates s.params.subCarry op (s.readReg rd) (s.flag .c)) (.register rd) s t := by
  have hne : rd ≠ 13 := by
    rintro rfl
    omega
  have hexec := exec_unary (op := op) (show rd.val < 14 by omega) (by simp [Form.flagsIntoF, hne]) s
  exact ⟨_, results_of_exec hw hrd (unaryUpdates_affected rd) (unaryUpdates_once _ _ _ _) hexec rfl⟩

theorem unaryUpdates_of_no_flags {op : UnaryOp} (hop : op.writesFlags = false) (p : SubCarry) (a : Word) (c : Bool) :
    unaryUpdates p op a c = [] := by
  cases op with
  | lrl | lrr | lsb => rfl
  | inc | dec | not | lsl | lsr => cases hop

/-- The operations that write no flag admit R13, as data (41 R131). -/
theorem exec_unary_of_no_flags {op : UnaryOp} {rd : Reg} (hop : op.writesFlags = false) (hlt : rd.val < 14)
    (s : State) :
    ∃ t, exec (Form.unary op rd).instr s = .next t ∧ t.pc = s.pc + 1 ∧
      Wrote rd (unaryResult op (s.readReg rd) (s.flag .c)) s t ∧ Frame [rd] [] s t ∧ SameBus s t := by
  have hexec := exec_unary (op := op) hlt (by simp [Form.flagsIntoF, hop]) s
  rw [unaryUpdates_of_no_flags hop, State.setFlags_nil] at hexec
  refine ⟨_, hexec, ?_, wrote_writeReg_advance hlt _ _ rfl rfl, ?_, ?_⟩
  · exact congrArg (· + 1) (State.writeReg_pc hlt _ s)
  · exact (writeReg_advance_changesOnly hlt _ 1).frame (by simp)
  · simp [SameBus]

end Results

end Sys2Proof.Machine

namespace Sys2Proof.Certificates

open Sys2Proof.Machine

/-- Settles O18: inc is a sum with the constant 1; the flags of either are those of `addFlags`, as numbers. -/
theorem addAndIncComplete : Obligations.AddAndIncComplete := by
  intro rd o s hw
  refine ⟨fun hwf hread => ?_, fun hrd => ?_, fun p => ⟨encode_instr p _, encode_instr p (.unary .inc rd)⟩⟩
  · obtain ⟨t, h⟩ := alu_results hw hwf hread
    obtain ⟨hvalue, hflags⟩ := h.sum
    exact ⟨t, h.next, h.pc, hvalue, hflags, h.frame, h.bus⟩
  · obtain ⟨t, h⟩ := unary_results .inc hw hrd
    obtain ⟨hvalue, hflags⟩ := h.sum
    exact ⟨t, h.next, h.pc, hvalue, hflags, h.frame, h.bus⟩

/-- Settles O19: dec is a difference with the constant 1; the flags of either are those of `subFlags`, as numbers. -/
theorem subAndDecComplete : Obligations.SubAndDecComplete := by
  intro rd o s hw
  refine ⟨fun hwf hread => ?_, fun hrd => ?_, fun p => ⟨encode_instr p _, encode_instr p (.unary .dec rd)⟩⟩
  · obtain ⟨t, h⟩ := alu_results hw hwf hread
    obtain ⟨hvalue, hflags⟩ := h.difference
    exact ⟨t, h.next, h.pc, hvalue, hflags, h.frame, h.bus⟩
  · obtain ⟨t, h⟩ := unary_results .dec hw hrd
    obtain ⟨hvalue, hflags⟩ := h.difference
    exact ⟨t, h.next, h.pc, hvalue, hflags, h.frame, h.bus⟩

/-- Settles O20: the three operations act on each bit, and their one flag update is that of Z. -/
theorem logicCompletes : Obligations.LogicCompletes := by
  intro op rd o s hw hop hwf hread
  obtain ⟨t, h⟩ := alu_results hw hwf hread
  have hcases : op = .and ∨ op = .or ∨ op = .xor := by simpa using hop
  refine ⟨t, h.next, h.pc, fun k => ?_, ?_, ?_, h.bus, fun p => (encode_instr p _).trans ?_⟩
  · rw [h.value]
    rcases hcases with rfl | rfl | rfl
    exacts [BitVec.getLsbD_and, BitVec.getLsbD_or, BitVec.getLsbD_xor]
  · rcases hcases with rfl | rfl | rfl <;> exact h.zero
  · rcases hcases with rfl | rfl | rfl <;> exact h.frame
  · rcases hcases with rfl | rfl | rfl <;> rfl

/-- Settles O21: Z says that the complement is zero, which it is of the word of ones alone. -/
theorem notCompletes : Obligations.NotCompletes := by
  intro rd s hw hrd
  obtain ⟨t, h⟩ := unary_results .not hw hrd
  have hones : t.readReg rd = 0 ↔ s.readReg rd = 0xFFFF := by
    rw [h.value]
    exact BitVec.not_eq_comm
  refine ⟨⟨t, h.next, h.pc, fun k => ?_, ?_, h.frame, h.bus⟩, fun p => encode_instr p (.unary .not rd)⟩
  · rw [h.value, not_bit _ _ k.isLt]
  · exact h.zero.trans (decide_eq_decide.mpr hones)

/-- Settles O22: the bits of the result by `lsl_bit` and `lsr_bit`, and the two flag updates of a shift. -/
theorem shiftsComplete : Obligations.ShiftsComplete := by
  intro rd s hw hrd
  refine ⟨?_, ?_, fun p => ⟨encode_instr p (.unary .lsl rd), encode_instr p (.unary .lsr rd)⟩⟩
  · obtain ⟨t, h⟩ := unary_results .lsl hw hrd
    obtain ⟨hc, hz⟩ := h.shift
    exact ⟨t, h.next, h.pc, fun k => by rw [h.value, lsl_bit _ _ k.isLt], hc, hz, h.frame, h.bus⟩
  · obtain ⟨t, h⟩ := unary_results .lsr hw hrd
    obtain ⟨hc, hz⟩ := h.shift
    exact ⟨t, h.next, h.pc, fun k => by rw [h.value, lsr_bit _ _ k.isLt], hc, hz, h.frame, h.bus⟩

/-- Settles O23: each operation's word, bit by bit; nothing but Rd is written. -/
theorem rotatesAndSwapComplete : Obligations.RotatesAndSwapComplete := by
  intro rd s hrd
  refine ⟨?_, ?_, ?_, fun p => ⟨encode_instr p (.unary .lrl rd), encode_instr p (.unary .lrr rd),
    encode_instr p (.unary .lsb rd)⟩⟩
  · obtain ⟨t, hnext, hpc, hwrote, hframe, hbus⟩ := exec_unary_of_no_flags (op := .lrl) rfl hrd s
    exact ⟨t, _, hnext, hpc, hwrote, fun k => lrl_bit _ _ k.isLt, hframe, hbus⟩
  · obtain ⟨t, hnext, hpc, hwrote, hframe, hbus⟩ := exec_unary_of_no_flags (op := .lrr) rfl hrd s
    exact ⟨t, _, hnext, hpc, hwrote, fun k => lrr_bit _ _ k.isLt, hframe, hbus⟩
  · obtain ⟨t, hnext, hpc, hwrote, hframe, hbus⟩ := exec_unary_of_no_flags (op := .lsb) rfl hrd s
    exact ⟨t, _, hnext, hpc, hwrote, fun k => lsb_bit _ _ k.isLt, hframe, hbus⟩

/-- Settles O24: the rotates and the swap move the places of a ring of sixteen bits, lsl those of a ring of seventeen. -/
theorem rotationIdentities : Obligations.RotationIdentities := by
  intro a c
  refine ⟨BitVec.eq_of_getLsbD_eq fun k hk => ?_, BitVec.eq_of_getLsbD_eq fun k hk => ?_,
    BitVec.eq_of_getLsbD_eq fun k hk => ?_, BitVec.not_not, ?_, ?_⟩
  · rw [lrr_bit _ _ hk, lrl_bit _ _ (by omega), show ((k + 1) % 16 + 15) % 16 = k by omega]
  · rw [lrl_bit _ _ hk, lrr_bit _ _ (by omega), show ((k + 15) % 16 + 1) % 16 = k by omega]
  · rw [lsb_bit _ _ hk, lsb_bit _ _ (by omega), show ((k + 8) % 16 + 8) % 16 = k by omega]
  · exact BitVec.eq_of_getLsbD_eq fun k hk =>
      ring_full_turn (bit := BitVec.getLsbD) (by omega) (fun x _ hk => lrl_bit x c hk) a hk
  · exact carryRing_ext fun k hk => ring_full_turn (by omega) carryRing_lsl (a, c) hk

end Sys2Proof.Certificates
end

section
/-! PROOFS. Branches and jumps (spec/42_control_flow.md R160 to R171): each is given the state it ends in, which is a
branch from the state its flags and its register are written in. The frame is what `ChangesOnly` says of that state, and
the program counter what `State.branch_pc` says. -/

namespace Sys2Proof.Machine

section Branches

variable {s t : State}

/-! ### Bit tests (42 R161, R162, 30 R86) -/

/-- The masked word is not zero exactly when the selected bit is 1. -/
theorem and_bitMask_ne_zero (v : Word) (i : Fin 16) : (v &&& bitMask i != 0) = v.getLsbD i.val := by
  have hbit (k : Nat) : (v &&& bitMask i).getLsbD k = (v.getLsbD k && decide (k = i.val)) := by
    rw [BitVec.getLsbD_and, getLsbD_bitMask]
  cases hv : v.getLsbD i.val with
  | true =>
    refine bne_iff_ne.mpr fun hzero => ?_
    have hone := hbit i.val
    rw [hzero, hv] at hone
    simp at hone
  | false =>
    refine bne_eq_false_iff_eq.mpr (BitVec.eq_of_getLsbD_eq fun k _ => ?_)
    rw [hbit]
    by_cases hk : k = i.val
    · rw [hk, hv]; simp
    · simp [hk]

theorem bitPos_figure_val (f : BitIndex) : (bitPos .figure f).val = 15 - f.val := by
  rw [bitPos, Fin.val_rev]
  omega

theorem State.testedBit_eq (s : State) (rs : Reg) (f : BitIndex) :
    s.testedBit rs f = (s.readReg rs).getLsbD (bitPos s.params.bitSelect f).val :=
  and_bitMask_ne_zero _ _

/-- bb branches where the bit is 1, bnb where it is not (42 R161, R162). -/
theorem branchOnBit_of_lt {b : BitTest} {rs : Reg} (hrs : rs.val < 14) (f : BitIndex) (g : Target) (s : State) :
    branchOnBit b rs f g s = .ok (s.branch (s.testedBit rs f == decide (b = .set)) g (1 + g.words)
      (s.setFlag .z (!s.testedBit rs f))) := by
  have hguard : guardForm (.bitBranch b rs f g) = .ok () := guardForm_of_registers rfl rfl (by simpa [Form.registers])
  simp only [branchOnBit, hguard, ok_bind]
  cases b <;> simp

/-! ### Counting branches (42 R163, R164) -/

/-- The destination of a counting branch that is not refused is one of R00 to R12 (30 R109 (a), (c)). -/
theorem guardForm_countBranch {rd : Reg} (hrd : rd.val < 13) (b : CountTest) (g : Target) :
    guardForm (.countBranch b rd g) = .ok () := by
  have hne : rd ≠ 13 := by
    rintro rfl
    omega
  exact guardForm_of_registers rfl (by simp [Form.flagsIntoF, hne]) (by simp [Form.registers]; omega)

/-- A register that is not zero is decremented, and bnz branches (42 R163, R164). -/
theorem branchAndCount_of_ne_zero {b : CountTest} {rd : Reg} (hrd : rd.val < 13) (g : Target)
    (hne : s.readReg rd ≠ 0) :
    branchAndCount b rd g s = .ok (s.branch (decide (b = .nonzero)) g (1 + g.words)
      ((s.setFlags (subFlags s.params.subCarry (s.readReg rd) 1).countUpdates).writeReg rd (s.readReg rd - 1))) := by
  simp only [branchAndCount, guardForm_countBranch hrd, ok_bind, beq_eq_false_iff_ne.mpr hne]
  cases b with
  | zero => rfl
  | nonzero => rw [bne_iff_ne.mpr hne]; rfl

/-- A register that is zero stays, and bz branches (42 R163, R164). -/
theorem branchAndCount_of_zero {b : CountTest} {rd : Reg} (hrd : rd.val < 13) (g : Target)
    (hzero : s.readReg rd = 0) :
    branchAndCount b rd g s = .ok (s.branch (decide (b = .zero)) g (1 + g.words) s.drawCountFlags) := by
  simp only [branchAndCount, guardForm_countBranch hrd, ok_bind, hzero]
  cases b <;> rfl

/-- The three flags of a counting branch that decrements (42 R163). -/
theorem countUpdates_flag {rd : Reg} (hrd : rd.val < 13) (hw : s.params.wf = true) (a : ArithFlags) (v : Word)
    (ht : t = (s.setFlags a.countUpdates).writeReg rd v) :
    t.flag .c = a.c ∧ t.flag .z = a.z ∧ t.flag .n = a.n := by
  have hset {f : Flag} {b : Bool} (hm : (f, b) ∈ a.countUpdates) (hf : f.writable = true) : t.flag f = b := by
    rw [ht, State.flag_congr (s := s.setFlags a.countUpdates) (by simp) (by simp) (State.writeReg_flags_of_lt hrd v _)]
    exact State.setFlags_flag hw hm (by simp [ArithFlags.countUpdates]) hf
  exact ⟨hset (by simp [ArithFlags.countUpdates]) rfl, hset (by simp [ArithFlags.countUpdates]) rfl,
    hset (by simp [ArithFlags.countUpdates]) rfl⟩

/-- The three free values of a counting branch that does not decrement, each drawn once (42 R163, 00 R11). -/
theorem State.drawCountFlags_flag (hw : s.params.wf = true) :
    s.drawCountFlags.flag .c = Config.freeBit s.draws ∧ s.drawCountFlags.flag .z = Config.freeBit (s.draws + 1) ∧
      s.drawCountFlags.flag .n = Config.freeBit (s.draws + 2) := by
  have hset {f : Flag} {b : Bool} (hm : (f, b) ∈ [(Flag.c, Config.freeBit s.draws),
      (.z, Config.freeBit (s.draws + 1)), (.n, Config.freeBit (s.draws + 2))]) (hf : f.writable = true) :
      s.drawCountFlags.flag f = b := State.setFlags_flag hw hm (by simp) hf
  exact ⟨hset (by simp) rfl, hset (by simp) rfl, hset (by simp) rfl⟩

/-- The flags of a word that is not zero, less 1: no borrow, zero from 1 alone, negative from 0x8001 up. -/
theorem subFlags_one {a : Word} (hne : a ≠ 0) (p : SubCarry) :
    (subFlags p a 1).c = decide (p = .notBorrow) ∧
      (subFlags p a 1).z = decide (a.toNat = 1) ∧ (subFlags p a 1).n = decide (2 ^ 15 + 1 ≤ a.toNat) := by
  have hpos : a.toNat ≠ 0 := fun h => hne (BitVec.eq_of_toNat_eq h)
  have := a.isLt
  rw [subFlags_c, subFlags_z, subFlags_n, show (1 : Word).toNat = 1 from rfl]
  refine ⟨?_, rfl, decide_eq_decide.mpr (by omega)⟩
  have hborrow : ¬ a.toNat < 1 := by omega
  cases p <;> simp [carryOfBorrow, hborrow]

theorem toNat_sub_one_add_one {a : Word} (hne : a ≠ 0) : (a - 1).toNat + 1 = a.toNat := by
  have hpos : a.toNat ≠ 0 := fun h => hne (BitVec.eq_of_toNat_eq h)
  have := a.isLt
  rw [toNat_word_sub, show (1 : Word).toNat = 1 from rfl]
  omega

/-! ### Compare and branch (42 R165 to R169) -/

/-- Which forms are refused does not depend on the comparison (30 R109). -/
theorem Form.compare_wf {c : Cmp} {rs : Reg} {o : Operand} {g : Target} (c' : Cmp)
    (h : (Form.compare c rs o g).wf = true) : (Form.compare c' rs o g).wf = true := by
  cases o <;> exact h

/-- A comparison that means `P` branches where `P` holds, changes the program counter alone, and reads its operand
once. -/
theorem compare_branches {c : Cmp} {rs : Reg} {o : Operand} {g : Target} {P : Prop} [Decidable P]
    (hwf : (Form.compare c rs o g).wf = true) (hread : s.operandReadable o = true)
    (hP : cmpHolds s.params.cmpSigned c (s.readReg rs) (s.operandValue o) = true ↔ P) :
    ∃ t, exec (Form.compare c rs o g).instr s = .next t ∧
      t.pc = (if P then s.target g else s.pc + BitVec.ofNat 24 (1 + o.words + g.words)) ∧
      t.flags = s.flags ∧ Frame [] [] s t ∧ BusOf o s t := by
  have hcompare : branchOnCompare c rs o g s = .ok (s.branch (cmpHolds s.params.cmpSigned c (s.readReg rs)
      (s.operandValue o)) g (1 + o.words + g.words) (s.afterOperand o)) := by
    simp only [branchOnCompare, guardForm_of_wf hwf, State.operand_of_readable hread, ok_bind]
  refine ⟨_, (exec_instr _ s).trans (finish_eq_next.mpr hcompare), ?_, by simp, ?_, by simp [BusOf]⟩
  · rw [State.branch_pc, State.afterOperand_pc]
    exact if_congr hP rfl rfl
  · exact (branchOnCompare_changesOnly hcompare).frame (branchOnCompare_mem hcompare)

/-- The order of words is that of the numbers CMP_SIGNED reads them as (42 R165, R168). -/
theorem cmpHolds_gt {signed : Bool} {a b : Word} :
    cmpHolds signed .gt a b = true ↔ if signed then b.toInt < a.toInt else b.toNat < a.toNat := by
  cases signed <;> exact decide_eq_true_iff

theorem cmpHolds_ge {signed : Bool} {a b : Word} :
    cmpHolds signed .ge a b = true ↔ if signed then b.toInt ≤ a.toInt else b.toNat ≤ a.toNat := by
  cases signed <;> exact decide_eq_true_iff

/-! ### Words (30 R100) -/

theorem Form.first_jump (g : Target) :
    (Form.jump g).first = (match g with | .relative _ => 0xA800 | .absolute _ => 0xAA00) := by
  cases g with
  | relative off => exact (by decide : firstWord (0xA8 ||| 0x00) 0 0 = 0xA800)
  | absolute a => exact (by decide : firstWord (0xA8 ||| 0x02) 0 0 = 0xAA00)

theorem Form.first_call (g : Target) :
    (Form.call g).first = (match g with | .relative _ => 0xAC00 | .absolute _ => 0xAE00) := by
  cases g with
  | relative off => exact (by decide : firstWord (0xAC ||| 0x00) 0 0 = 0xAC00)
  | absolute a => exact (by decide : firstWord (0xAC ||| 0x02) 0 0 = 0xAE00)

/-- An instruction begins with its first word, whatever the order of its extension words (30 R100, R104). -/
theorem encode_head (p : Params) (f : Form) : (encode p f.instr).head? = some f.first := by
  rw [encode_instr, List.head?_cons]

end Branches

end Sys2Proof.Machine

namespace Sys2Proof.Certificates

open Sys2Proof.Machine

/-- Settles O26: the bit that decides the branch is the one whose complement Z takes. -/
theorem bitTestsComplete : Obligations.BitTestsComplete := by
  intro b rs f g s bit hw hrs hbit
  have htested : s.testedBit rs f = bit := by
    rw [State.testedBit_eq, hbit]
    cases s.params.bitSelect with
    | weight => rfl
    | figure => rw [bitPos_figure_val]
  have hbranch := branchOnBit_of_lt (b := b) hrs f g s
  refine ⟨_, (exec_instr (.bitBranch b rs f g) s).trans (finish_eq_next.mpr hbranch), ?_, ?_, ?_, ?_, fun p => ?_⟩
  · rw [State.branch_pc, htested, State.setFlag_pc]
    cases b <;> cases bit <;> rfl
  · rw [State.branch_flag, State.setFlag_flag_same hw _ rfl, htested]
  · exact (branchOnBit_changesOnly hbranch).frame (branchOnBit_mem hbranch)
  · simp [SameBus]
  · rw [encode_instr]
    cases b <;> rfl

/-- Settles O27: the flags of the subtraction of 1, the register one less, and bnz's branch. -/
theorem countBranchDecrements : Obligations.CountBranchDecrements := by
  intro b rd g s hw hrd hne
  have hcount := branchAndCount_of_ne_zero (b := b) hrd g hne
  obtain ⟨hc, hz, hn⟩ := countUpdates_flag hrd hw (subFlags s.params.subCarry (s.readReg rd) 1) _ rfl
  obtain ⟨hsubc, hsubz, hsubn⟩ := subFlags_one hne s.params.subCarry
  refine ⟨_, (exec_instr (.countBranch b rd g) s).trans (finish_eq_next.mpr hcount), ?_, ?_, ?_, ?_, ?_, ?_, ?_,
    fun p => ?_⟩
  · rw [State.readReg_congr hrd (State.branch_regs _ _ _ _ _), State.readReg_writeReg_same hrd,
      toNat_sub_one_add_one hne]
  · rw [State.branch_pc, State.writeReg_pc (by omega), State.setFlags_pc]
    cases b <;> rfl
  · rw [State.branch_flag, hc, hsubc]
    cases s.params.subCarry <;> rfl
  · rw [State.branch_flag, hz, hsubz]
  · rw [State.branch_flag, hn, hsubn]
  · exact (branchAndCount_changesOnly hcount).frame (branchAndCount_mem hcount)
  · simp [SameBus]
  · rw [encode_instr]
    cases b <;> rfl

/-- Settles O28: three free values drawn for C, Z and N, the register as it was, and bz's branch. -/
theorem countBranchOnZero : Obligations.CountBranchOnZero := by
  intro b rd g s hw hrd hzero
  have hcount := branchAndCount_of_zero (b := b) hrd g hzero
  obtain ⟨hc, hz, hn⟩ := State.drawCountFlags_flag hw
  have hchanges : ChangesOnly [] [.c, .z, .n] s (s.branch (decide (b = .zero)) g (1 + g.words) s.drawCountFlags) :=
    (ChangesOnly.drawCountFlags (by simp) (by simp) (by simp) s).trans (.branch s _ _ g _)
  refine ⟨_, (exec_instr (.countBranch b rd g) s).trans (finish_eq_next.mpr hcount), ?_, ?_, ?_, ?_, ?_, by simp,
    by simp, hchanges.frame (by simp)⟩
  · rw [State.readReg_congr (s := s) hrd (by simp), hzero]
  · rw [State.branch_pc, State.drawCountFlags_pc]
    cases b <;> rfl
  · rw [State.branch_flag, hc]
  · rw [State.branch_flag, hz]
  · rw [State.branch_flag, hn]

/-- Settles O29: beq branches where the words are equal, bneq where they are not. -/
theorem equalityBranchesComplete : Obligations.EqualityBranchesComplete := fun _ _ _ _ hwf hread =>
  ⟨compare_branches hwf hread beq_iff_eq, compare_branches (Form.compare_wf .ne hwf) hread bne_iff_ne,
    fun p => ⟨encode_head p _, encode_head p (.compare .ne _ _ _)⟩⟩

/-- Settles O30: bgt and bge branch by the order of the numbers that CMP_SIGNED reads the words as. -/
theorem orderBranchesComplete : Obligations.OrderBranchesComplete := fun _ _ _ _ hwf hread =>
  ⟨compare_branches hwf hread cmpHolds_gt, compare_branches (Form.compare_wf .ge hwf) hread cmpHolds_ge,
    fun p => ⟨encode_head p _, encode_head p (.compare .ge _ _ _)⟩⟩

/-- Settles O31: the program counter is replaced by the target. -/
theorem jumpCompletes : Obligations.JumpCompletes := by
  intro g s
  refine ⟨⟨s.setPc (s.target g), exec_instr (.jump g) s, rfl, rfl, ?_, rfl, rfl⟩, fun p => ?_⟩
  · exact (ChangesOnly.setPc (s.target g) s).frame rfl
  · exact (encode_instr p (.jump g)).trans (congrArg (· :: g.ext p) (Form.first_jump g))

end Sys2Proof.Certificates
end

section
/-! PROOFS. Calls and returns (spec/42_control_flow.md R172 to R177, spec/60_exceptions.md R209, R210): the slots above a
stack pointer that words were pushed from are the slots they were pushed to; registers popped in a row, none of them the
stack pointer and none twice, are written with the words above; `jms`, `ret` and `reti` are put together from these. -/

namespace Sys2Proof.Machine

section Calls

variable {s t u : State}

/-! ### The slots of a stack (10 R26) -/

/-- After `n` pops the slots above are those `n` further up. -/
theorem State.slotAbove_add {n : Nat} (hp : t.params = s.params) (hs : t.sp = s.sp + BitVec.ofNat 16 n) (k : Nat) :
    t.slotAbove k = s.slotAbove (n + k) := by
  unfold State.slotAbove
  rw [hp, hs]
  cases s.params.stack <;> simp only [BitVec.add_assoc, ← BitVec.ofNat_add, Nat.add_assoc]

/-- After `n` pushes the slots above are those pushed to, the last one first. -/
theorem State.slotAbove_eq_slotBelow {n j k : Nat} (hp : t.params = s.params)
    (hs : t.sp = s.sp - BitVec.ofNat 16 n) (hn : j + k + 1 = n) : t.slotAbove j = s.slotBelow k := by
  unfold State.slotAbove State.slotBelow
  rw [hp, hs, ← hn]
  cases s.params.stack with
  | writeThenDecrement | decrementThenWrite =>
    refine stackAddr_inj.mpr (BitVec.eq_of_toNat_eq ?_)
    simp only [BitVec.toNat_add, BitVec.toNat_sub, BitVec.toNat_ofNat]
    omega

theorem State.holds_congr (hp : t.params = s.params) (hm : t.mem = s.mem) (a : Addr) (v : Word) :
    t.holds a v = s.holds a v := by
  rw [State.holds, State.holds, hp, hm]

theorem State.holds_of_ram {a : Addr} {v : Word} (hk : s.ramAt a = true) (hv : s.mem.readWord a = some v) :
    s.holds a v = true := by
  simp [State.holds, State.ramAt_iff.mp hk, hv]

/-! ### jms (42 R172, R175) -/

theorem addrWords_eq_pair (o : AddrOrder) (a : Addr) : ∃ w0 w1, addrWords o a = [w0, w1] := by
  cases o <;> exact ⟨_, _, rfl⟩

/-- jms where the two slots are RAM: they hold the address of the next instruction, and nothing but memory, the stack
pointer and the program counter is another. -/
theorem callTo_of_ram {g : Target} {w0 w1 : Word} (h0 : s.ramAt (s.slotBelow 0) = true)
    (h1 : s.ramAt (s.slotBelow 1) = true)
    (hpair : addrWords s.params.stackOrder (s.pc + BitVec.ofNat 24 (1 + g.words)) = [w0, w1]) :
    ∃ m, callTo g s = .ok { s with mem := m, regs := s.regs.set 12 (s.sp - 2), pc := s.target g } ∧
      m.readWord (s.slotBelow 0) = some w0 ∧ m.readWord (s.slotBelow 1) = some w1 := by
  have hram : ∀ k < [w0, w1].length, s.ramAt (s.slotBelow k) = true
    | 0, _ => h0
    | 1, _ => h1
  obtain ⟨m, hpush, hread, -⟩ := State.pushAll_of_ram [w0, w1] s hram
  refine ⟨m, ?_, hread (by simp) 0 (by simp), hread (by simp) 1 (by simp)⟩
  simp only [callTo, State.pushAddr, hpair, hpush, ok_bind]
  rfl

/-! ### ret (42 R173, R175) -/

theorem returnFromCall_of_slots {w0 w1 : Word} (h0 : s.holds (s.slotAbove 0) w0 = true)
    (h1 : s.holds (s.slotAbove 1) w1 = true) :
    returnFromCall s =
      .ok { s with regs := s.regs.set 12 (s.sp + 2), pc := pairAddr s.params.stackOrder w1 w0 } := by
  simp only [returnFromCall, State.popAddr_of_slots h0 h1, ok_bind]
  rfl

/-! ### Registers popped in a row (42 R177) -/

/-- A register written keeps its word through what changes other registers alone. -/
theorem Wrote.then_changes {q : Reg} {v : Word} {l : List Reg} (hq : q.val < 14) (hl : q ∉ l) (h : Wrote q v s t)
    (hc : ChangesOnly l [] t u) : Wrote q v s u := by
  unfold Wrote at *
  split
  next h13 =>
    subst h13
    intro b
    rw [hc.flags hl b (by simp)]
    exact h b
  next h13 =>
    have hlt : q.val < 13 := by
      have : q.val ≠ 13 := fun e => h13 (Fin.ext e)
      omega
    rw [hc.regs q hlt hl]
    simpa [h13] using h

/-- A register is written too as seen from before what changed other registers alone. -/
theorem Wrote.after_changes {q : Reg} {v : Word} {l : List Reg} (hl : q ∉ l) (hc : ChangesOnly l [] s t)
    (h : Wrote q v t u) : Wrote q v s u := by
  unfold Wrote at *
  split
  next h13 =>
    subst h13
    intro b
    have hbit := h b
    rw [hc.flags hl b (by simp)] at hbit
    simpa [State.flagPos, hc.carries.params] using hbit
  next h13 => simpa [h13] using h

/-- Registers of R00 to R13 but R12, each once, popped where the slots hold words: each is written with its word, and the
stack pointer rises by their number. -/
theorem State.popRegs_of_slots {rs : List Reg} {ws : List Word} (hlen : rs.length ≤ ws.length)
    (hrs : ∀ r ∈ rs, r.val < 14 ∧ r ≠ 12) (honce : rs.Nodup)
    (hslots : ∀ k (hk : k < rs.length), s.holds (s.slotAbove k) (ws[k]'(by omega)) = true) :
    ∃ t, s.popRegs rs = .ok t ∧ t.sp = s.sp + BitVec.ofNat 16 rs.length ∧ SameBus s t ∧
      ∀ k (hk : k < rs.length), Wrote rs[k] (ws[k]'(by omega)) s t := by
  induction rs generalizing s ws with
  | nil => exact ⟨s, rfl, by simp, ⟨rfl, rfl⟩, nofun⟩
  | cons r rs ih =>
    obtain ⟨w, ws, rfl⟩ := List.exists_cons_of_length_pos (Nat.lt_of_lt_of_le (Nat.succ_pos _) hlen)
    obtain ⟨⟨hr, hr12⟩, hrest⟩ := List.forall_mem_cons.mp hrs
    obtain ⟨hnotin, honce⟩ := List.nodup_cons.mp honce
    have hpop : s.pop = .ok (w, s.setSp (s.sp + 1)) := State.pop_of_slot (hslots 0 (Nat.succ_pos _))
    set s1 := (s.setSp (s.sp + 1)).writeReg r w with hs1
    have hparams : s1.params = s.params := by simp [hs1]
    have hmem : s1.mem = s.mem := by simp [hs1]
    have hsp : s1.sp = s.sp + 1 := by
      rw [State.sp_eq_readReg, hs1, State.readReg_writeReg_ne hr (by decide) (Ne.symm hr12)]
      exact State.setSp_sp _ s
    have hchanged : ChangesOnly [12, r] [] s s1 :=
      (ChangesOnly.setSp (by simp) _ s).trans (.writeReg hr (by simp) w _)
    obtain ⟨t, htail, htsp, hbus, hwrote⟩ := ih (s := s1) (ws := ws) (by simpa using hlen) hrest honce fun k hk => by
      rw [State.slotAbove_succ hparams hsp, State.holds_congr hparams hmem]
      exact hslots (k + 1) (Nat.succ_lt_succ hk)
    have hlater : ChangesOnly (12 :: rs) [] s1 t :=
      .popRegs (by simp) (fun q hq => ⟨(hrest q hq).1, List.mem_cons_of_mem 12 hq⟩) htail
    refine ⟨t, by simp only [State.popRegs, hpop, ok_bind, ← hs1, htail], ?_, ?_, fun k hk => ?_⟩
    · rw [htsp, hsp, add_one_add]
      rfl
    · simpa [SameBus, hs1] using hbus
    · cases k with
      | zero =>
        have hhead : Wrote r w s s1 := (State.wrote_writeReg hr w _).of_left rfl rfl
        exact hhead.then_changes hr (by simp [hr12, hnotin]) hlater
      | succ k =>
        have hk' : k < rs.length := Nat.lt_of_succ_lt_succ hk
        have hmemk : rs[k] ∈ rs := List.getElem_mem hk'
        refine (hwrote k hk').after_changes ?_ hchanged
        simp [(hrest _ hmemk).2, ne_of_mem_of_not_mem hmemk hnotin]

/-! ### reti (42 R177, 60 R209, R210) -/

theorem restoreOrder_admitted : ∀ r ∈ restoreOrder, r.val < 14 ∧ r ≠ 12 := by decide

theorem restoreOrder_once : restoreOrder.Nodup := by decide

/-- After F come R11 down to R00 (42 R177). -/
theorem restoreOrder_succ : ∀ k : Fin 12, restoreOrder[1 + k.val]'(by simp [restoreOrder]; omega) =
    ⟨11 - k.val, by omega⟩ := by decide

/-- reti with no request waiting, where the fifteen slots above hold words: each of R13 and R11 to R00 is written with
its word, and the program counter is the address in the last two. -/
theorem State.returnFromInterrupt_of_slots {ws : List Word} (hlen : ws.length = 15) (hempty : s.irq = [])
    (hslots : ∀ k (hk : k < 15), s.holds (s.slotAbove k) ws[k] = true) :
    ∃ t, s.returnFromInterrupt = .ok t ∧ t.pc = pairAddr s.params.stackOrder ws[14] ws[13] ∧
      t.sp = s.sp + 15 ∧ SameBus s t ∧
      ∀ k (hk : k < restoreOrder.length), Wrote restoreOrder[k] (ws[k]'(by simp [restoreOrder] at hk; omega)) s t := by
  have h13 : restoreOrder.length = 13 := rfl
  obtain ⟨s1, hregs, hsp, hbus, hwrote⟩ := State.popRegs_of_slots (s := s) (ws := ws) (by omega) restoreOrder_admitted
    restoreOrder_once fun k hk => hslots k (by omega)
  have hparams : s1.params = s.params := (Carries.popRegs hregs).params
  have hmem : s1.mem = s.mem := State.popRegs_mem hregs
  have hslot (k : Nat) (hk : k < 2) : s1.holds (s1.slotAbove k) ws[13 + k] = true := by
    rw [State.slotAbove_add hparams hsp, State.holds_congr hparams hmem]
    exact hslots (13 + k) (by omega)
  have hpop := State.popAddr_of_slots (hslot 0 (by omega)) (hslot 1 (by omega))
  set s2 : State := { s1 with regs := s1.regs.set 12 (s1.sp + 2) } with hs2
  have hchanged : ChangesOnly [12] [] s1 (s2.setPc (pairAddr s1.params.stackOrder ws[14] ws[13])) :=
    (ChangesOnly.popAddr (by simp) hpop).trans (.setPc _ s2)
  refine ⟨s2.setPc (pairAddr s1.params.stackOrder ws[14] ws[13]), ?_, by rw [State.setPc_pc, hparams], ?_, hbus,
    fun k hk => ?_⟩
  · simp only [State.returnFromInterrupt, hempty, hregs, ok_bind, hpop]
  · calc (s2.setPc _).sp = s1.sp + 2 := State.setSp_sp _ s1
      _ = s.sp + BitVec.ofNat 16 13 + 2 := by rw [hsp, h13]
      _ = s.sp + 15 := by rw [BitVec.add_assoc]; rfl
  · obtain ⟨hlt, h12⟩ := restoreOrder_admitted _ (List.getElem_mem hk)
    exact (hwrote k hk).then_changes hlt (mt List.mem_singleton.mp h12) hchanged

end Calls

end Sys2Proof.Machine

namespace Sys2Proof.Certificates

open Sys2Proof.Machine

/-- Settles O32: the two words of the return address are pushed, and the program counter is the target. -/
theorem callCompletes : Obligations.CallCompletes := by
  rintro g s _ h0 h1 rfl
  obtain ⟨w0, w1, hpair⟩ := addrWords_eq_pair s.params.stackOrder (s.pc + BitVec.ofNat 24 (1 + g.words))
  obtain ⟨m, hcall, hread⟩ := callTo_of_ram h0 h1 hpair
  have hchanged := callTo_changesOnly hcall
  refine ⟨_, highPart _, lowPart _, (exec_instr (.call g) s).trans (finish_eq_next.mpr hcall), highPart_toNat _,
    lowPart_toNat _, ?_, rfl, ?_, hchanged.regs, rfl, callTo_memory hcall, hchanged.untouched, ⟨rfl, rfl⟩, fun p => ?_⟩
  · cases ho : s.params.stackOrder with
    | highFirst | lowFirst =>
      rw [ho] at hpair
      cases hpair
      exact hread
  · exact State.setSp_sp _ s
  · exact (encode_instr p (.call g)).trans (congrArg (· :: g.ext p) (Form.first_call g))

/-- Settles O33: the address is that of the two words popped, as a number. -/
theorem retCompletes : Obligations.RetCompletes := by
  intro s w0 w1 h0 h1
  have hret := returnFromCall_of_slots h0 h1
  have hchanged := returnFromCall_changesOnly hret
  refine ⟨_, finish_eq_next.mpr hret, ?_, State.setSp_sp _ s, hchanged.regs, rfl, fun _ => rfl, hchanged.untouched,
    ⟨rfl, rfl⟩, fun _ => rfl⟩
  dsimp only
  cases s.params.stackOrder <;> exact joinAddr_toNat _ _

/-- Settles O34: the slots above the moved stack pointer are those jms pushed to, and hold its words in that order. -/
theorem callThenReturn : Obligations.CallThenReturn := by
  intro g s t u h0 h1 hexec hparams hsp hmem0 hmem1
  obtain ⟨w0, w1, hpair⟩ := addrWords_eq_pair s.params.stackOrder (s.pc + BitVec.ofNat 24 (1 + g.words))
  obtain ⟨m, hcall, hread0, hread1⟩ := callTo_of_ram h0 h1 hpair
  obtain rfl := Host.Outcome.next.inj (((exec_instr (.call g) s).trans (finish_eq_next.mpr hcall)).symm.trans hexec)
  have husp : u.sp = s.sp - 2 := hsp.trans (State.setSp_sp (s.sp - 2) s)
  have hparams' : u.params = s.params := hparams
  have hram {a : Addr} (h : s.ramAt a = true) : u.ramAt a = true := by
    rwa [State.ramAt, hparams']
  have hslot0 : u.slotAbove 0 = s.slotBelow 1 := State.slotAbove_eq_slotBelow hparams husp rfl
  have hslot1 : u.slotAbove 1 = s.slotBelow 0 := State.slotAbove_eq_slotBelow hparams husp rfl
  have hret : returnFromCall u = _ := returnFromCall_of_slots (w0 := w1) (w1 := w0)
    (by rw [hslot0]; exact State.holds_of_ram (hram h1) (hmem1.trans hread1))
    (by rw [hslot1]; exact State.holds_of_ram (hram h0) (hmem0.trans hread0))
  refine ⟨_, finish_eq_next.mpr hret, ?_, ?_⟩
  · rw [hparams']
    exact pairAddr_addrWords _ _ hpair
  · refine (State.setSp_sp (u.sp + 2) u).trans ?_
    rw [husp]
    exact BitVec.sub_add_cancel _ _

/-- Settles O35: fifteen words popped, each to its register, the last two the address. -/
theorem retiRestores : Obligations.RetiRestores := by
  intro s ws hlen hempty hslots
  obtain ⟨t, hreti, hpc, hsp, hbus, hwrote⟩ := State.returnFromInterrupt_of_slots hlen hempty hslots
  have hchanged := returnFromInterrupt_changesOnly hreti
  rw [State.dropRequest_of_empty hempty] at hchanged
  refine ⟨t, finish_eq_next.mpr hreti, hwrote 0 (by decide), fun k hk => ?_, hpc, hsp,
    fun b => by rw [State.returnFromInterrupt_mem hreti], hchanged.untouched, hbus, fun _ => rfl⟩
  have hk13 : 1 + k < restoreOrder.length := by simp [restoreOrder]; omega
  have hreg := hwrote (1 + k) hk13
  rw [restoreOrder_succ ⟨k, hk⟩] at hreg
  have hne : (⟨11 - k, by omega⟩ : Reg) ≠ 13 := Fin.ne_of_lt (show 11 - k < 13 by omega)
  rwa [Wrote, if_neg hne] at hreg

/-- Settles O36: the vector is read once the request has left the FIFO. -/
theorem retiChains : Obligations.RetiChains := by
  intro s n l w0 w1 hirq hvector
  have hread := State.readVector_of_vectorIs (s := s.dropRequest) (n := n.number) hvector
  have hreti : s.returnFromInterrupt =
      .ok { s.dropRequest with pc := pairAddr s.params.vectorOrder w0 w1 } := by
    simp only [State.returnFromInterrupt, hirq, hread, ok_bind]
    rfl
  refine (finish_eq_next.mpr hreti).trans ?_
  simp [State.dropRequest, hirq]

end Sys2Proof.Certificates
end

section
/-! PROOFS. Stack, bits, halt and nop (spec/43_other.md R190 to R196): behind their guard push is one memory write at the
next slot and pop one memory read; push then pop goes through a bank whose registers, written with what they read, stay as
they are; sb and rb write the register with one bit replaced. -/

namespace Sys2Proof.Machine

section StackAndBits

variable {s u : State} {r : Reg}

/-! ### The next slots as numbers (10 R26) -/

theorem stackAddr_sub_one_toNat (v : Word) : (stackAddr (v - 1)).toNat = (v.toNat + 65535) % 65536 := by
  rw [stackAddr_toNat, BitVec.toNat_sub, Nat.add_comm]
  rfl

theorem stackAddr_add_one_toNat (v : Word) : (stackAddr (v + 1)).toNat = (v.toNat + 1) % 65536 := by
  rw [stackAddr_toNat, BitVec.toNat_add]
  rfl

/-! ### push (43 R190) -/

/-- Behind the guard push is the write at the next slot, the stack pointer lowered and the program counter advanced. -/
theorem pushFrom_of_admitted (hr : r.val < 14) (h12 : r ≠ 12) (s : State) :
    pushFrom r s = s.memWrite (s.slotBelow 0) (s.readReg r) >>= fun u => .ok ((u.setSp (s.sp - 1)).advance 1) := by
  have hguard : guardForm (.push r) = .ok () :=
    guardForm_of_registers (by simpa [Form.stacksSp]) rfl (by simpa [Form.registers])
  simp only [pushFrom, hguard, ok_bind, State.push, State.pushSlot_eq]
  cases s.memWrite (s.slotBelow 0) (s.readReg r) with
  | error | ok => rfl

theorem pushFrom_of_memWrite (hr : r.val < 14) (h12 : r ≠ 12)
    (hw : s.memWrite (s.slotBelow 0) (s.readReg r) = .ok u) :
    pushFrom r s = .ok ((u.setSp (s.sp - 1)).advance 1) := by
  rw [pushFrom_of_admitted hr h12, hw, ok_bind]

/-- A push whose write stops, stops for the same reason. -/
theorem exec_push_of_memWrite_error {e : Stop} (hr : r.val < 14) (h12 : r ≠ 12)
    (hw : s.memWrite (s.slotBelow 0) (s.readReg r) = .error e) : exec (.push r) s = e.outcome := by
  rw [exec_form, Instr.form, execForm, pushFrom_of_admitted hr h12, hw, error_bind, finish]

/-! ### pop (43 R191) -/

/-- Behind the guard pop is the read at the next slot, the stack pointer raised, then the register written. -/
theorem popInto_of_readable (hr : r.val < 14) (h12 : r ≠ 12) (hread : s.readable (s.slotAbove 0) = true) :
    popInto r s = .ok ((((s.afterRead (s.slotAbove 0)).setSp (s.sp + 1)).writeReg r
      (s.valueAt (s.slotAbove 0))).advance 1) := by
  have hguard : guardForm (.pop r) = .ok () :=
    guardForm_of_registers (by simpa [Form.stacksSp]) rfl (by simpa [Form.registers])
  simp only [popInto, hguard, ok_bind, State.pop, State.popSlot_eq, State.memRead_of_readable hread]

/-! ### A register written with what it reads (10 R21, R22, R33, R34) -/

/-- In the I positions nothing is written, and in the others a read shows the stored bit. -/
theorem State.writeFlags_readFlags (s : State) : s.writeFlags s.readFlags = s := by
  have hbits : (s.writeFlags s.readFlags).flags = s.flags := by
    refine BitVec.eq_of_getLsbD_eq fun k _ => ?_
    by_cases hk : s.isIrqBit k
    · exact State.writeFlags_bit_of_irq _ hk
    · exact (State.writeFlags_bit_of_not_irq _ hk).trans (State.readFlags_bit_of_not_irq hk)
  calc s.writeFlags s.readFlags = { s with flags := (s.writeFlags s.readFlags).flags } := rfl
    _ = s := by rw [hbits]

theorem State.writeReg_readReg (hr : r.val < 14) (s : State) : s.writeReg r (s.readReg r) = s := by
  by_cases h13 : r.val < 13
  · rw [State.writeReg_bank h13, State.readReg_bank h13, Vector.set_getElem_self]
  · obtain rfl : r = 13 := Fin.ext (show r.val = 13 by omega)
    rw [State.writeReg_flags, State.readReg_flags, State.writeFlags_readFlags]

/-- A read of R00 to R13 does not depend on memory or the program counter. -/
theorem State.readReg_of_mem_pc (hr : r.val < 14) (m : Memory) (a : Addr) (s : State) :
    ({ s with mem := m, pc := a } : State).readReg r = s.readReg r := by
  by_cases h13 : r.val < 13
  · exact State.readReg_congr h13 rfl
  · obtain rfl : r = 13 := Fin.ext (show r.val = 13 by omega)
    rfl

/-! ### push then pop (43 R190, R191) -/

/-- The slot above after a push is the slot pushed to; the pop finds the word there and brings the stack pointer back. -/
theorem popInto_after_pushFrom (hr : r.val < 14) (h12 : r ≠ 12) (hram : s.ramAt (s.slotBelow 0) = true) :
    ∃ t, pushFrom r s = .ok t ∧
      popInto r t = .ok { s with mem := s.mem.writeWord (s.slotBelow 0) (s.readReg r), pc := s.pc + 2 } := by
  set m := s.mem.writeWord (s.slotBelow 0) (s.readReg r)
  set t : State := (({ s with mem := m } : State).setSp (s.sp - 1)).advance 1 with ht
  have hpush : pushFrom r s = .ok t := pushFrom_of_memWrite hr h12 (State.memWrite_of_ram _ hram)
  have hsp : t.sp = s.sp - 1 := State.setSp_sp _ _
  have hslot : t.slotAbove 0 = s.slotBelow 0 := State.slotAbove_eq_slotBelow (n := 1) rfl hsp rfl
  have hheld : t.holds (t.slotAbove 0) (s.readReg r) = true := by
    rw [hslot]
    exact State.holds_of_ram hram (Memory.readWord_writeWord_same _ _ _)
  obtain ⟨hread, hvalue, hafter⟩ := State.of_holds hheld
  have hback : t.setSp (t.sp + 1) = { s with mem := m, pc := s.pc + 1 } := by
    rw [hsp, show s.sp - 1 + 1 = s.sp from BitVec.sub_add_cancel _ _]
    simp only [ht, State.setSp, State.advance, State.setPc, set_set_sp, set_sp_self]
    rfl
  have hkept := State.writeReg_readReg hr { s with mem := m, pc := s.pc + 1 }
  rw [State.readReg_of_mem_pc hr] at hkept
  refine ⟨t, hpush, ?_⟩
  rw [popInto_of_readable hr h12 hread, hvalue, hafter, hback, hkept]
  simp only [State.advance, State.setPc, BitVec.add_assoc]
  rfl

/-! ### sb and rb (43 R193, R194) -/

/-- The next state of sb, where `b` is true, and of rb, where it is false. -/
def State.bitWritten (s : State) (r : Reg) (f : BitIndex) (b : Bool) : State :=
  (s.writeReg r (setBitTo (s.readReg r) (bitPos s.params.bitSelect f) b)).advance 1

theorem exec_sb (hr : r.val < 14) (f : BitIndex) (s : State) : exec (.sb r f) s = .next (s.bitWritten r f true) := by
  have hguard : guardForm (.setBit r f) = .ok () := guardForm_of_registers rfl rfl (by simpa [Form.registers])
  simp only [exec_form, Instr.form, execForm, setBitIn, hguard, ok_bind, finish_ok]
  rfl

theorem exec_rb (hr : r.val < 14) (f : BitIndex) (s : State) : exec (.rb r f) s = .next (s.bitWritten r f false) := by
  have hguard : guardForm (.resetBit r f) = .ok () := guardForm_of_registers rfl rfl (by simpa [Form.registers])
  simp only [exec_form, Instr.form, execForm, resetBitIn, hguard, ok_bind, finish_ok]
  rfl

/-- The register has the one bit replaced, and nothing else is another but the program counter (43 R193, R194). -/
theorem State.bitWritten_spec (hr : r.val < 14) (f : BitIndex) (b : Bool) (s : State) :
    (s.bitWritten r f b).pc = s.pc + 1 ∧
      Wrote r (setBitTo (s.readReg r) (bitPos s.params.bitSelect f) b) s (s.bitWritten r f b) ∧
      (∀ k : Fin 16, (setBitTo (s.readReg r) (bitPos s.params.bitSelect f) b).getLsbD k.val =
        if k.val = (bitPos s.params.bitSelect f).val then b else (s.readReg r).getLsbD k.val) ∧
      Frame [r] [] s (s.bitWritten r f b) ∧ SameBus s (s.bitWritten r f b) := by
  refine ⟨congrArg (· + 1) (State.writeReg_pc hr _ s), wrote_writeReg_advance hr _ 1 rfl rfl,
    fun k => getLsbD_setBitTo _ _ b k.val, ?_, ?_⟩
  · exact (writeReg_advance_changesOnly hr _ 1).frame (by simp)
  · simp [State.bitWritten, SameBus]

end StackAndBits

end Sys2Proof.Machine

namespace Sys2Proof.Certificates

open Sys2Proof.Machine

/-- Settles O37: the write at the next slot decides, one clause for each thing that can answer there. -/
theorem pushCompletes : Obligations.PushCompletes := by
  intro r s hr h12
  refine ⟨?_, fun hram => ?_, fun hdevice => ?_, fun hflash hignore => ?_, fun hflash hrefuse => ?_, fun hnone => ?_,
    fun _ => rfl⟩
  · rw [← State.pushSlot_eq, State.pushSlot]
    cases s.params.stack with
    | writeThenDecrement => exact stackAddr_toNat _
    | decrementThenWrite => exact stackAddr_sub_one_toNat _
  · have hpush := pushFrom_of_memWrite hr h12 (State.memWrite_of_ram _ (State.ramAt_iff.mpr hram))
    have hchanged := pushFrom_changesOnly hpush
    exact ⟨_, finish_eq_next.mpr hpush, rfl, Memory.readWord_writeWord_same _ _ _, pushFrom_memory hpush,
      State.setSp_sp _ _, hchanged.regs, rfl, hchanged.untouched, rfl, rfl⟩
  · have hpush := pushFrom_of_memWrite hr h12 (State.memWrite_of_device _ hdevice)
    exact ⟨_, finish_eq_next.mpr hpush, rfl, rfl, rfl, State.setSp_sp _ _, (pushFrom_changesOnly hpush).frame rfl⟩
  · have hpush := pushFrom_of_memWrite hr h12 (State.memWrite_of_ignoringFlash _ hflash hignore)
    exact ⟨_, finish_eq_next.mpr hpush, rfl, State.setSp_sp _ _, (pushFrom_changesOnly hpush).frame rfl, rfl, rfl⟩
  · exact exec_push_of_memWrite_error hr h12 (State.memWrite_of_refusingFlash _ hflash hrefuse)
  · exact exec_push_of_memWrite_error hr h12 (State.memWrite_of_unpopulated _ hnone)

/-- Settles O38: the slot is read, the stack pointer raised, then the register written. -/
theorem popCompletes : Obligations.PopCompletes := by
  intro r s hr h12 hread
  have hpop := popInto_of_readable hr h12 hread
  refine ⟨?_, _, finish_eq_next.mpr hpop, ?_, ?_, ?_, ?_, ?_, ?_, fun _ => rfl⟩
  · rw [← State.popSlot_eq, State.popSlot]
    cases s.params.stack with
    | writeThenDecrement => exact stackAddr_add_one_toNat _
    | decrementThenWrite => exact stackAddr_toNat _
  · rw [State.advance_pc, State.writeReg_pc hr, State.setSp_pc, State.afterRead_pc]
    rfl
  · exact wrote_writeReg_advance hr _ 1 (by simp) (by simp)
  · exact (State.readReg_writeReg_ne hr (by decide) (Ne.symm h12) _ _).trans (State.setSp_sp _ _)
  · exact (popInto_changesOnly hpop).frame (popInto_mem hpop)
  · simp
  · simp

/-- Settles O39: after both, memory and the program counter alone are others. -/
theorem pushThenPop : Obligations.PushThenPop := by
  intro r s hr h12 hram
  obtain ⟨t, hpush, hpop⟩ := popInto_after_pushFrom hr h12 hram
  exact ⟨t, _, finish_eq_next.mpr hpush, finish_eq_next.mpr hpop, State.readReg_of_mem_pc hr _ _ s, rfl,
    fun _ hq _ => State.readReg_congr hq rfl, rfl, fun _ => rfl, rfl,
    fun k hk => Memory.readByte_writeWord_ne _ _ _ (hk _ (List.mem_singleton_self _)),
    ⟨rfl, rfl, rfl, rfl, rfl, rfl⟩, rfl, rfl⟩

/-- Settles O40: both write the register with the one bit replaced. -/
theorem bitWritesComplete : Obligations.BitWritesComplete := by
  intro r f s p hr hp
  obtain rfl : p = (bitPos s.params.bitSelect f).val := by
    rw [hp]
    cases s.params.bitSelect with
    | weight => rfl
    | figure =>
      have hrev : f.rev.val = 16 - (f.val + 1) := Fin.val_rev f
      show 15 - f.val = f.rev.val
      omega
  exact ⟨⟨_, _, exec_sb hr f s, State.bitWritten_spec hr f true s⟩,
    ⟨_, _, exec_rb hr f s, State.bitWritten_spec hr f false s⟩, fun _ => ⟨rfl, rfl⟩⟩

/-- Settles O41: the advance, and the halted bit set. -/
theorem hltCompletes : Obligations.HltCompletes := ⟨fun _ => rfl, fun _ => rfl⟩

/-- Settles O42: the advance alone. -/
theorem nopCompletes : Obligations.NopCompletes := ⟨fun _ => rfl, fun _ => rfl, rfl⟩

end Sys2Proof.Certificates
end

section
/-! PROOFS. Interrupts (spec/60_exceptions.md R203 to R210): a request that arrives, the boundary where one is taken, the
entry as fifteen words pushed in a row, and reti after an entry, which finds those words above the stack pointer in the
opposite order. -/

namespace Sys2Proof.Machine

section Interrupts

variable {s t u : State} {n : IrqCode}

/-! ### Arrival (60 R203) -/

theorem State.arrive_of_room (n : IrqCode) (h : s.irq.length < 4) : s.arrive n = { s with irq := s.irq ++ [n] } :=
  if_pos h

theorem State.arrive_of_full (n : IrqCode) (h : 4 ≤ s.irq.length) : s.arrive n = s :=
  if_neg (Nat.not_lt.mpr h)

/-- An arrival does not look at the inputs still to come. -/
theorem State.arrive_setInputs (n : IrqCode) (s : State) (later : List (List Input)) :
    ({ s with inputs := later } : State).arrive n = { s.arrive n with inputs := later } := by
  by_cases hroom : s.irq.length < 4
  · rw [State.arrive_of_room n hroom]
    exact State.arrive_of_room n hroom
  · have hfull : 4 ≤ s.irq.length := Nat.not_lt.mp hroom
    rw [State.arrive_of_full n hfull]
    exact State.arrive_of_full n hfull

/-- The inputs before a step are taken one after another: a request that comes first arrives before the others. -/
theorem State.takeInputs_cons_irq {l : List Input} {later : List (List Input)} (h : s.inputs = (.irq n :: l) :: later) :
    s.takeInputs = ({ s.arrive n with inputs := l :: later } : State).takeInputs := by
  simp only [State.takeInputs, h, List.foldl_cons, State.input, State.arrive_setInputs]

/-! ### The boundary (00 R12, 60 R205) -/

theorem State.dueInterrupt_of_enabled {l : List IrqCode} (hie : s.flag .ie = true) (hirq : s.irq = n :: l) :
    s.dueInterrupt = some n := by
  simp [State.dueInterrupt, hie, hirq]

theorem State.dueInterrupt_eq_none : s.dueInterrupt = none ↔ s.flag .ie = false ∨ s.irq = [] := by
  cases hie : s.flag .ie <;> simp [State.dueInterrupt, hie]

/-- A request that is due is taken before anything is fetched, halted or not. -/
theorem boundary_of_due (hreset : s.resetAsserted = false) (hdue : s.dueInterrupt = some n) :
    boundary s = finish (s.enterInterrupt n) := by
  simp [boundary, hreset, hdue]

theorem boundary_of_fetch_error {e : Stop} (hreset : s.resetAsserted = false) (hdue : s.dueInterrupt = none)
    (hhalt : s.halted = false) (hf : fetch s = .error e) : boundary s = e.outcome := by
  simp [boundary, hreset, hdue, hhalt, hf]

/-! ### The frame of an interrupt (60 R207, R208) -/

theorem State.savedRegs_eq (s : State) : s.savedRegs = (List.finRange 12).map fun k => s.regs[k.val] := rfl

/-- The frame opened up: the two words of the return address, R00 to R11, F. -/
theorem State.frameWords_eq {w0 w1 : Word} (h : addrWords s.params.stackOrder s.pc = [w0, w1]) :
    s.frameWords = w0 :: w1 :: (s.savedRegs ++ [s.dropRequest.readFlags]) := by
  simp [State.frameWords, h]

@[simp] theorem State.frameWords_length (s : State) : s.frameWords.length = 15 := by
  obtain ⟨w0, w1, hpair⟩ := addrWords_eq_pair s.params.stackOrder s.pc
  simp [State.frameWords_eq hpair, State.savedRegs_eq]

theorem State.frameWords_pc (s : State) :
    pairAddr s.params.stackOrder (s.frameWords[0]'(by simp)) (s.frameWords[1]'(by simp)) = s.pc := by
  obtain ⟨w0, w1, hpair⟩ := addrWords_eq_pair s.params.stackOrder s.pc
  simp only [State.frameWords_eq hpair]
  exact pairAddr_addrWords _ _ hpair

theorem State.frameWords_reg {k : Nat} (hk : k < 12) (s : State) :
    s.frameWords[2 + k]'(by simp; omega) = s.readReg ⟨k, by omega⟩ := by
  obtain ⟨w0, w1, hpair⟩ := addrWords_eq_pair s.params.stackOrder s.pc
  rw [State.readReg_bank (show k < 13 by omega)]
  simp [State.frameWords_eq hpair, State.savedRegs_eq, Nat.add_comm 2 k, hk]

theorem State.frameWords_flags (s : State) : s.frameWords[14]'(by simp) = s.dropRequest.readFlags := by
  obtain ⟨w0, w1, hpair⟩ := addrWords_eq_pair s.params.stackOrder s.pc
  simp [State.frameWords_eq hpair, State.savedRegs_eq]

/-! ### Entry (60 R207) -/

theorem State.pushAll_append (vs ws : List Word) (s : State) :
    s.pushAll (vs ++ ws) = s.pushAll vs >>= State.pushAll ws := by
  induction vs generalizing s with
  | nil => rfl
  | cons v vs ih =>
    simp only [List.cons_append, State.pushAll]
    cases s.push v with
    | error e => rfl
    | ok s1 => exact ih s1

theorem State.pushAll_singleton (v : Word) (s : State) : s.pushAll [v] = s.push v := by
  simp only [State.pushAll]
  cases s.push v <;> rfl

/-- The pushes of an entry are those of one list of words, the frame. -/
theorem State.enterInterrupt_eq (n : IrqCode) (s : State) :
    s.enterInterrupt n = s.dropRequest.pushAll s.frameWords >>= fun s3 =>
      (s3.setFlag .ie false).wake.readVector n.number >>= fun r => .ok (r.2.setPc r.1) := by
  simp only [State.frameWords, State.pushAll_append, State.pushAll_singleton, bind_assoc]
  rfl

/-- The state in which an entry reads the vector: the request gone, memory `m`, the stack pointer fifteen words down, IE
cleared, the halt ended. -/
def State.entered (s : State) (m : Memory) : State :=
  ((({ s.dropRequest with mem := m } : State).setSp (s.sp - 15)).setFlag .ie false).wake

theorem State.entered_flag_ie (hwf : s.params.wf = true) (m : Memory) : (s.entered m).flag .ie = false :=
  State.setFlag_flag_same (s := ({ s.dropRequest with mem := m } : State).setSp (s.sp - 15)) hwf false rfl

theorem State.entered_sameFlagsBut (s : State) (m : Memory) : SameFlagsBut [.ie] s (s.entered m) :=
  setFlags_sameFlagsBut (s := s) (U := [(.ie, false)]) (by simp)

theorem State.frameFits.ram (h : s.frameFits n.number) : ∀ k < 15, s.ramAt (s.slotBelow k) = true :=
  fun k hk => (h k hk).1

/-- The vector's words are held as before once the frame is stored, which misses them. -/
theorem State.frameFits.vectorIs {w0 w1 : Word} (h : s.frameFits n.number) (hvec : s.vectorIs n.number w0 w1)
    (hparams : t.params = s.params)
    (hmem : ∀ a, (∀ k < 15, a ≠ s.slotBelow k) → t.mem.readWord a = s.mem.readWord a) :
    t.vectorIs n.number w0 w1 := by
  have hkeeps {a : Addr} {w : Word} (hmiss : ∀ k < 15, a ≠ s.slotBelow k) (hheld : s.holds a w = true) :
      t.holds a w = true := by
    rwa [State.holds, hparams, hmem a hmiss]
  obtain ⟨hheld0, hheld1⟩ := hvec
  refine ⟨hkeeps (fun k hk => ?_) hheld0, hkeeps (fun k hk => ?_) hheld1⟩
  · obtain ⟨-, hmiss, -⟩ := h k hk
    exact hmiss.symm
  · obtain ⟨-, -, hmiss⟩ := h k hk
    exact hmiss.symm

/-- An entry whose frame is RAM and misses the vector goes through, with the frame in the next fifteen slots. -/
theorem State.enterInterrupt_of_fits {w0 w1 : Word} (hvec : s.vectorIs n.number w0 w1) (hfits : s.frameFits n.number) :
    ∃ m, s.enterInterrupt n = .ok ((s.entered m).setPc (pairAddr s.params.vectorOrder w0 w1)) ∧
      (∀ k < 15, m.readWord (s.slotBelow k) = s.frameWords[k]?) ∧
      ∀ b, (∀ k < 15, b ∉ wordBytes (s.slotBelow k)) → m.readByte b = s.mem.readByte b := by
  obtain ⟨m, hpush, hread, hword, hbyte⟩ := State.pushAll_of_ram s.frameWords s.dropRequest fun k hk =>
    hfits.ram k (by simpa using hk)
  rw [State.frameWords_length] at hpush hread hword hbyte
  have hhandler := State.readVector_of_vectorIs (hfits.vectorIs (t := s.entered m) hvec rfl hword)
  refine ⟨m, ?_, hread (by decide), hbyte⟩
  rw [State.enterInterrupt_eq, hpush, ok_bind]
  exact congrArg (· >>= fun r => .ok (r.2.setPc r.1)) hhandler

/-- With no input and no reset, a step with IE = 1 and a request waiting is the entry (00 R12, 60 R205). -/
theorem step_of_entry {l : List IrqCode} (hinputs : s.inputs = []) (hreset : s.resetAsserted = false)
    (hie : s.flag .ie = true) (hirq : s.irq = n :: l) : step s = finish (s.enterInterrupt n) := by
  rw [step, State.takeInputs_of_isEmpty hinputs]
  exact boundary_of_due hreset (State.dueInterrupt_of_enabled hie hirq)

/-! ### reti after an entry (60 R209) -/

/-- Words pushed to RAM that are still there when the stack pointer is where the pushes left it stand in the slots above
it, the last one pushed first. -/
theorem State.holds_slotAbove_of_pushed {vs : List Word} (hparams : u.params = s.params)
    (hsp : u.sp = s.sp - BitVec.ofNat 16 vs.length) (hram : ∀ k < vs.length, s.ramAt (s.slotBelow k) = true)
    (hread : ∀ k < vs.length, u.mem.readWord (s.slotBelow k) = vs[k]?) (j : Nat) (hj : j < vs.length) :
    u.holds (u.slotAbove j) (vs.reverse[j]'(by simpa using hj)) = true := by
  have hk : vs.length - 1 - j < vs.length := by omega
  rw [State.slotAbove_eq_slotBelow (k := vs.length - 1 - j) hparams hsp (by omega), List.getElem_reverse]
  refine State.holds_of_ram ?_ ((hread _ hk).trans (List.getElem?_eq_getElem hk))
  rw [State.ramAt, hparams]
  exact hram _ hk

/-- A flag that software writes is the bit of the word R13 was written with. -/
theorem Wrote.flag {v : Word} {f : Flag} (hwf : s.params.wf = true) (hparams : t.params = s.params)
    (hf : f.writable = true) (h : Wrote 13 v s t) : t.flag f = v.getLsbD (s.flagPos f).val := by
  have hstored : ¬ s.isIrqBit (s.flagPos f).val := State.not_irqBit_of_writable hwf hf
  have hbit := h (s.flagPos f)
  rw [if_neg (mt State.isIrqBit_val.mpr hstored)] at hbit
  rw [State.flag_eq_bit (by rwa [hparams]) hf, ← hbit, State.flagPos, hparams]
  rfl

/-- The word of F in a frame holds every flag that software writes. -/
theorem State.dropRequest_readFlags_bit {f : Flag} (hwf : s.params.wf = true) (hf : f.writable = true) :
    s.dropRequest.readFlags.getLsbD (s.flagPos f).val = s.flag f := by
  calc s.dropRequest.flag f = s.flags.getLsbD (s.flagPos f).val := State.flag_eq_bit (s := s.dropRequest) hwf hf
    _ = s.flag f := (State.flag_eq_bit hwf hf).symm

end Interrupts

end Sys2Proof.Machine

namespace Sys2Proof.Certificates

open Sys2Proof.Machine

/-- Settles O46: the two branches of an arrival, and the first of the inputs taken by itself. -/
theorem arrivalQueues : Obligations.ArrivalQueues := fun _ n _ _ =>
  ⟨State.arrive_of_room n, State.arrive_of_full n, State.takeInputs_cons_irq⟩

/-- Settles O10: with IE = 1 and a request the boundary enters; otherwise nothing is due and it fetches. -/
theorem interruptTakenExactly : Obligations.InterruptTakenExactly := by
  rintro s u rfl hreset
  refine ⟨fun n l hie hirq t henter => ?_, fun hnone hhalt => ?_⟩
  · have hdue := State.dueInterrupt_of_enabled hie hirq
    exact (boundary_of_due hreset hdue).trans (finish_eq_next.mpr henter)
  · have hdue := State.dueInterrupt_eq_none.mpr hnone
    exact ⟨fun _ _ => boundary_of_fetch hreset hdue hhalt, fun _ => boundary_of_fetch_error hreset hdue hhalt⟩

/-- Settles O47: the state entered, read off field by field. -/
theorem interruptEntry : Obligations.InterruptEntry := by
  intro s n l w0 w1 hwf hinputs hreset hie hirq hvec hfits
  obtain ⟨m, henter, hread, hbyte⟩ := State.enterInterrupt_of_fits hvec hfits
  refine ⟨_, (step_of_entry hinputs hreset hie hirq).trans (finish_eq_next.mpr henter), hread, s.frameWords_length,
    fun b hb => ?_, ?_, ?_, ?_, rfl, ?_, ?_, rfl, rfl, hreset, hinputs, rfl, ⟨rfl, rfl⟩⟩
  · exact hbyte b fun k hk => hb _ (List.mem_map_of_mem (List.mem_range.mpr hk))
  · exact State.setSp_sp _ s
  · exact setSp_sameRegsBut rfl
  · exact congrArg List.tail hirq
  · exact State.entered_flag_ie hwf m
  · exact State.entered_sameFlagsBut s m

/-- Settles O48: by O47 the frame stands in the slots below, which are those above the stack pointer that entry left; by
O35 reti restores from them. -/
theorem entryThenRetiRestores : Obligations.EntryThenRetiRestores := by
  intro s t u n l w0 w1 hwf hinputs hreset hie hirq hvec hfits hstep huparams huirq husp humem
  obtain ⟨t', hstep', hframe, -, -, htsp, -, -, -, -, -, -, -, -, -, htparams, -⟩ :=
    interruptEntry s n l w0 w1 hwf hinputs hreset hie hirq hvec hfits
  obtain rfl := Host.Outcome.next.inj (hstep'.symm.trans hstep)
  have hparams : u.params = s.params := huparams.trans htparams
  have hsp : u.sp = s.sp - 15 := husp.trans htsp
  have hslots := State.holds_slotAbove_of_pushed (vs := s.frameWords) hparams (by simpa using hsp)
    (fun k hk => hfits.ram k (by simpa using hk))
    (fun k hk => (humem k (by simpa using hk)).trans (hframe k (by simpa using hk)))
  obtain ⟨v, hreti, hflags, hregs, hpc, hvsp, -, ⟨-, -, -, -, -, hvparams⟩, -⟩ :=
    retiRestores u s.frameWords.reverse (by simp) huirq (fun k hk => hslots k (by simpa using hk))
  have hword (k : Nat) (hk : k < 15) : s.frameWords.reverse[k]'(by simpa using hk) =
      s.frameWords[14 - k]'(by simp; omega) := by
    simp [List.getElem_reverse]
  refine ⟨v, hreti, ?_, fun r hr => ?_, fun f hf => ?_⟩
  · rw [hpc, hword 14 (by decide), hword 13 (by decide), hparams]
    exact s.frameWords_pc
  · by_cases h12 : r = 12
    · rw [h12, hvsp, husp, htsp]
      exact BitVec.sub_add_cancel _ _
    · have hr12 : r.val < 12 := by
        have : r.val ≠ 12 := fun e => h12 (Fin.ext e)
        omega
      have hback : 11 - (11 - r.val) = r.val := by omega
      have hplace : 14 - (1 + (11 - r.val)) = 2 + r.val := by omega
      have hpopped := hregs (11 - r.val) (by omega)
      rw [hword _ (by omega)] at hpopped
      simpa only [hback, hplace, State.frameWords_reg hr12] using hpopped
  · rw [hflags.flag (by rwa [hparams]) hvparams hf, hword 0 (by decide), State.flagPos, hparams]
    exact (congrArg (BitVec.getLsbD · _) s.frameWords_flags).trans (State.dropRequest_readFlags_bit hwf hf)

end Sys2Proof.Certificates
end

section
/-! PROOFS. Reset (spec/70_reset_and_hazards.md R230, R233): what the inputs before a step leave alone, the cleared state
in which the reset sequence reads vector 0, and the step there where both words have a value and where one has none. -/

namespace Sys2Proof.Machine

section Reset

variable {s : State} {e : Stop} {n : Nat} {w0 : Word}

/-! ### What the inputs leave alone (00 R12) -/

theorem SameBus.trans {t u : State} (h : SameBus s t) (h' : SameBus t u) : SameBus s u :=
  let ⟨hevents, hdraws⟩ := h
  let ⟨hevents', hdraws'⟩ := h'
  ⟨hevents'.trans hevents, hdraws'.trans hdraws⟩

theorem State.input_sameBus (i : Input) (s : State) : SameBus s (s.input i) := by
  cases i with
  | irq n =>
    rw [State.input, State.arrive]
    split <;> exact ⟨rfl, rfl⟩
  | reset => exact ⟨rfl, rfl⟩

theorem State.foldl_input_sameBus (l : List Input) (s : State) : SameBus s (l.foldl State.input s) := by
  induction l generalizing s with
  | nil => exact ⟨rfl, rfl⟩
  | cons i l ih => exact (State.input_sameBus i s).trans (ih (s.input i))

/-- The environment's inputs access no device and use up no free value (20 R62). -/
theorem State.takeInputs_sameBus (s : State) : SameBus s s.takeInputs := by
  unfold State.takeInputs
  split
  · exact ⟨rfl, rfl⟩
  · exact State.foldl_input_sameBus _ _

/-! ### The cleared state (70 R230) -/

/-- With the FIFO empty the I positions read 0 too, so that no premise on FLAG_BIT is needed (10 R33). -/
theorem State.cleared_readFlags (s : State) : s.cleared.readFlags = 0 := by
  refine BitVec.eq_of_getLsbD_eq fun k _ => ?_
  simp [State.readFlags, getLsbD_setBitTo, State.irqHead, State.cleared]

@[simp] theorem State.cleared_flag (f : Flag) (s : State) : s.cleared.flag f = false := by
  simp [State.flag, State.cleared_readFlags]

theorem State.performReset_eq (s : State) :
    s.performReset = s.cleared.readVector 0 >>= fun r => .ok (r.2.setPc r.1) := rfl

/-! ### A vector that cannot be read (60 R204) -/

theorem State.readVector_of_first_error (h : s.memRead (vectorSlot n) = .error e) : s.readVector n = .error e := by
  simp only [State.readVector, h, error_bind]

theorem State.readVector_of_second_error (h0 : s.holds (vectorSlot n) w0 = true)
    (h1 : s.memRead (vectorSlot n + 1) = .error e) : s.readVector n = .error e := by
  simp only [State.readVector, State.memRead_of_holds h0, ok_bind, h1, error_bind]

/-! ### The step (00 R12, 70 R230) -/

/-- With reset asserted a step is the reset sequence, whatever else waits. -/
theorem step_of_reset (hreset : s.takeInputs.resetAsserted = true) : step s = finish s.takeInputs.performReset :=
  if_pos hreset

theorem step_of_reset_error (hreset : s.takeInputs.resetAsserted = true)
    (h : s.takeInputs.cleared.readVector 0 = .error e) : step s = e.outcome := by
  rw [step_of_reset hreset, State.performReset_eq, h]
  rfl

theorem State.performReset_of_vectorIs {w1 : Word} (h : s.cleared.vectorIs 0 w0 w1) :
    s.performReset = .ok (s.cleared.setPc (pairAddr s.params.vectorOrder w0 w1)) := by
  rw [State.performReset_eq, State.readVector_of_vectorIs h]
  rfl

/-- Inputs and clearing keep memory and what answers at each address. -/
theorem State.takeInputs_cleared_holds (a : Addr) (v : Word) (s : State) : s.takeInputs.cleared.holds a v = s.holds a v :=
  State.holds_congr (t := s.takeInputs.cleared) s.takeInputs_params s.takeInputs_mem a v

theorem State.takeInputs_cleared_memRead_of_unwritten {a : Addr} (hk : s.ramAt a = true)
    (hw : s.mem.readWord a = none) : s.takeInputs.cleared.memRead a = .error (.fault (.unwritten a)) := by
  refine State.memRead_of_unwritten (.inl ?_) ?_
  · exact (congrArg (kindAt · a) s.takeInputs_params).trans (State.ramAt_iff.mp hk)
  · exact (congrArg (Memory.readWord · a) s.takeInputs_mem).trans hw

end Reset

end Sys2Proof.Machine

namespace Sys2Proof.Certificates

open Sys2Proof.Machine

/-- Settles O49: the vector is read in the cleared state, whose memory is that before the step; the state reached is the
cleared one with the program counter set. -/
theorem resetSequence : Obligations.ResetSequence := by
  intro s hreset
  refine ⟨fun w0 w1 ⟨h0, h1⟩ => ?_, fun hk hw => ?_, fun w0 h0 hk hw => ?_⟩
  · have hvector : s.takeInputs.cleared.vectorIs 0 w0 w1 :=
      ⟨(State.takeInputs_cleared_holds ..).trans h0, (State.takeInputs_cleared_holds ..).trans h1⟩
    have hdone := State.performReset_of_vectorIs hvector
    rw [State.takeInputs_params] at hdone
    refine ⟨_, (step_of_reset hreset).trans (finish_eq_next.mpr hdone), rfl, s.takeInputs.cleared_flag .ie,
      s.takeInputs.cleared_flag .i2, s.takeInputs.cleared_flag .i1, s.takeInputs.cleared_flag .i0, rfl, rfl, ?_,
      s.takeInputs_mem, s.takeInputs_params, rfl, rfl, s.takeInputs_sameBus⟩
    rw [State.setPc_pc]
    cases s.params.vectorOrder with
    | highFirst => exact joinAddr_toNat w0 w1
    | lowFirst => exact joinAddr_toNat w1 w0
  · exact step_of_reset_error hreset
      (State.readVector_of_first_error (State.takeInputs_cleared_memRead_of_unwritten hk hw))
  · exact step_of_reset_error hreset
      (State.readVector_of_second_error ((State.takeInputs_cleared_holds ..).trans h0)
        (State.takeInputs_cleared_memRead_of_unwritten hk hw))

end Sys2Proof.Certificates
end
